-- ==== Sys2Proof/Word.lean ====
section
/-! DEFINITION. The word types of the CHIP-8 CORE: a cell, an instruction word or 16-bit register, and the fields of an
instruction word (spec/00_scope.md R8, spec/30_encoding.md R92). -/

namespace Sys2Proof

/-- An 8-bit memory cell, general register or timer (R20, R30, R32). -/
abbrev Byte := BitVec 8

/-- A 16-bit register (I, PC, a stack slot) or instruction word (R23, R24, R28, R90). -/
abbrev Word := BitVec 16

/-- The 12-bit address operand `nnn` (R92). -/
abbrev Addr12 := BitVec 12

/-- A 4-bit field of an instruction word (R92). -/
abbrev Nibble := BitVec 4

/-- The index of a general register V0 to VF, a 4-bit field (R20). -/
abbrev RegIx := BitVec 4

/-- A key number 0 to 15, 4 bits (R33, R238). -/
abbrev Key := BitVec 4

/-- The index of VF, the flag register (R22). -/
abbrev vfIx : RegIx := 0xF#4

end Sys2Proof
end

