-- ==== Sys2Proof/Machine/Flags.lean ====
section
/-! DEFINITION. The flag values that instructions write to VF (spec/10_state.md R38). -/

namespace Sys2Proof.Machine

/-- `bool(c)` as the byte VF receives (R9). -/
def flagByte (c : Bool) : Byte := if c then 1#8 else 0#8

/-- 8xy4: 1 if the exact sum is above 255 (R176). -/
def carryFlag (a b : Byte) : Byte := flagByte (decide (255 < a.toNat + b.toNat))

/-- 8xy5 and 8xy7: 1 if `a - b` does not borrow, that is `a >= b` (R177, R179). -/
def noBorrowFlag (a b : Byte) : Byte := flagByte (decide (b.toNat ≤ a.toNat))

/-- 8xy6: bit 0 before the shift (R178). -/
def shiftRightFlag (a : Byte) : Byte := flagByte (a.getLsbD 0)

/-- 8xyE: bit 7 before the shift (R180). -/
def shiftLeftFlag (a : Byte) : Byte := flagByte (a.getLsbD 7)

end Sys2Proof.Machine
end

