-- ==== Sys2Proof/Config.lean ====
section
/-! DEFINITION. What the spec fixes for the machine (spec/00_scope.md R6), the named parameters it leaves open
(spec/00_scope.md R7), and the one free value, the random source's bytes. -/

namespace Sys2Proof

/-- MEM_SIZE: addresses 0x000 to 0xFFF (R6, R60). -/
abbrev memSize : Nat := 4096

/-- PROG_BASE: the reset PC and the load address (R6). -/
abbrev progBase : Nat := 0x200

/-- MAX_IMAGE: the longest image the loader takes, in bytes (R6). -/
abbrev maxImage : Nat := 3584

/-- STACK_DEPTH: return addresses the call stack holds (R6). -/
abbrev stackDepth : Nat := 16

/-- FONT: 16 glyphs of 5 bytes (R6). -/
abbrev fontBytes : Nat := 80

/-- SPRITE_EDGE: what Dxyn does with a pixel beyond the right or bottom edge (R7, R231). -/
inductive SpriteEdge where
  | wrap
  | clip
  deriving DecidableEq, Repr

/-- KEY_INDEX_HIGH: what Ex9E and ExA1 do when Vx is 16 or more (R7, R235). -/
inductive KeyIndexHigh where
  | lowNibble
  | refuse
  deriving DecidableEq, Repr

/-- The parameters of R7, fixed for a machine. A state carries them in `State.cfg`, which no operation changes, so a statement
about every state holds for every choice of them. -/
structure Config where
  /-- FONT_BASE, a 12-bit address. -/
  fontBase : Addr12
  /-- FONT_DATA, 80 bytes. -/
  fontData : Vector Byte 80
  spriteEdge : SpriteEdge
  keyIndexHigh : KeyIndexHigh
  /-- TRACE_ENABLED: whether the diagnostic trace is emitted (R129), with no effect on the state. -/
  traceEnabled : Bool
  deriving DecidableEq, Repr

/-- The bound R7 puts on FONT_BASE: the font lies in the reserved region 0x000 to 0x1FF. -/
def Config.wf (c : Config) : Bool := decide (c.fontBase.toNat + fontBytes ≤ progBase)

/-- The byte the random source gives at its `n`-th draw (R37, R54, R181): a free value, any byte at each draw, with no law across
draws. Assumption 3. -/
opaque Config.randomByte : Nat → Byte

end Sys2Proof
end

