-- ==== Sys2Proof/Syntax.lean ====
section
/-! DEFINITION. The instruction set: one constructor for each of the 35 classes of spec/30_encoding.md R97 (the rows of
spec/opcode_table.json, in its order). Operands are the fields of R92 that the word carries, the ignored ones too, so that no bit
of a word is lost. -/

namespace Sys2Proof

inductive Instr where
  /-- 00E0, CLS -/
  | cls
  /-- 00EE, RET -/
  | ret
  /-- 0nnn (other), SYS nnn -/
  | sys (nnn : Addr12)
  /-- 1nnn, JP nnn -/
  | jp (nnn : Addr12)
  /-- 2nnn, CALL nnn -/
  | call (nnn : Addr12)
  /-- 3xkk, SE Vx, kk -/
  | seImm (x : RegIx) (kk : Byte)
  /-- 4xkk, SNE Vx, kk -/
  | sneImm (x : RegIx) (kk : Byte)
  /-- 5xy0, SE Vx, Vy; any n (R99) -/
  | seReg (x y : RegIx) (n : Nibble)
  /-- 6xkk, LD Vx, kk -/
  | ldImm (x : RegIx) (kk : Byte)
  /-- 7xkk, ADD Vx, kk -/
  | addImm (x : RegIx) (kk : Byte)
  /-- 8xy0, LD Vx, Vy -/
  | ldReg (x y : RegIx)
  /-- 8xy1, OR Vx, Vy -/
  | orReg (x y : RegIx)
  /-- 8xy2, AND Vx, Vy -/
  | andReg (x y : RegIx)
  /-- 8xy3, XOR Vx, Vy -/
  | xorReg (x y : RegIx)
  /-- 8xy4, ADD Vx, Vy -/
  | addReg (x y : RegIx)
  /-- 8xy5, SUB Vx, Vy -/
  | subReg (x y : RegIx)
  /-- 8xy6, SHR Vx (y encoded and ignored) -/
  | shr (x y : RegIx)
  /-- 8xy7, SUBN Vx, Vy -/
  | subnReg (x y : RegIx)
  /-- 8xyE, SHL Vx (y encoded and ignored) -/
  | shl (x y : RegIx)
  /-- 9xy0, SNE Vx, Vy; any n (R99) -/
  | sneReg (x y : RegIx) (n : Nibble)
  /-- Annn, LD I, nnn -/
  | ldI (nnn : Addr12)
  /-- Bnnn, JP V0, nnn -/
  | jpV0 (nnn : Addr12)
  /-- Cxkk, RND Vx, kk -/
  | rnd (x : RegIx) (kk : Byte)
  /-- Dxyn, DRW Vx, Vy, n -/
  | drw (x y : RegIx) (n : Nibble)
  /-- Ex9E, SKP Vx -/
  | skp (x : RegIx)
  /-- ExA1, SKNP Vx -/
  | sknp (x : RegIx)
  /-- Fx07, LD Vx, DT -/
  | ldVxDt (x : RegIx)
  /-- Fx0A, LD Vx, K -/
  | ldVxK (x : RegIx)
  /-- Fx15, LD DT, Vx -/
  | ldDtVx (x : RegIx)
  /-- Fx18, LD ST, Vx -/
  | ldStVx (x : RegIx)
  /-- Fx1E, ADD I, Vx -/
  | addIVx (x : RegIx)
  /-- Fx29, LD F, Vx -/
  | ldFVx (x : RegIx)
  /-- Fx33, LD B, Vx -/
  | ldBVx (x : RegIx)
  /-- Fx55, LD [I], Vx -/
  | ldMemVx (x : RegIx)
  /-- Fx65, LD Vx, [I] -/
  | ldVxMem (x : RegIx)
  deriving DecidableEq, Repr

end Sys2Proof
end

