-- ==== Sys2Proof/Decode.lean ====
section
/-! DEFINITION. The decoder of spec/30_encoding.md R96, total on every word and on any bytes, and after it the encoder written
from the same layouts (R92, R97). -/

namespace Sys2Proof

/-! ### The fields of a word (R92) -/

/-- `op = w[15:12]` -/
def opField (w : Word) : Nibble := w.extractLsb' 12 4
/-- `x = w[11:8]` -/
def xField (w : Word) : RegIx := w.extractLsb' 8 4
/-- `y = w[7:4]` -/
def yField (w : Word) : RegIx := w.extractLsb' 4 4
/-- `n = w[3:0]` -/
def nField (w : Word) : Nibble := w.extractLsb' 0 4
/-- `kk = w[7:0]` -/
def kkField (w : Word) : Byte := w.extractLsb' 0 8
/-- `nnn = w[11:0]` -/
def nnnField (w : Word) : Addr12 := w.extractLsb' 0 12

/-- Why the decoder gives no instruction. -/
inductive DecodeError where
  /-- The word is one of the 9808 that raise `InvalidOpcode` (R100 to R103). -/
  | invalidOpcode (w : Word)
  /-- Fewer than the two bytes of an instruction were given (R90); `step` never gives fewer. -/
  | truncated
  deriving DecidableEq, Repr

/-- Class 0x0, decided on the whole of `nnn` (R96, R98). -/
def decodeClass0 (w : Word) : Instr :=
  if nnnField w = 0x0E0#12 then .cls
  else if nnnField w = 0x0EE#12 then .ret
  else .sys (nnnField w)

/-- Class 0x8, on `n` (R96, R100). -/
def decodeClass8 (w : Word) : Except DecodeError Instr :=
  match (nField w).toNat with
  | 0x0 => .ok (.ldReg (xField w) (yField w))
  | 0x1 => .ok (.orReg (xField w) (yField w))
  | 0x2 => .ok (.andReg (xField w) (yField w))
  | 0x3 => .ok (.xorReg (xField w) (yField w))
  | 0x4 => .ok (.addReg (xField w) (yField w))
  | 0x5 => .ok (.subReg (xField w) (yField w))
  | 0x6 => .ok (.shr (xField w) (yField w))
  | 0x7 => .ok (.subnReg (xField w) (yField w))
  | 0xE => .ok (.shl (xField w) (yField w))
  | _ => .error (.invalidOpcode w)

/-- Class 0xE, on `kk` (R96, R101). -/
def decodeClassE (w : Word) : Except DecodeError Instr :=
  match (kkField w).toNat with
  | 0x9E => .ok (.skp (xField w))
  | 0xA1 => .ok (.sknp (xField w))
  | _ => .error (.invalidOpcode w)

/-- Class 0xF, on `kk` (R96, R102). -/
def decodeClassF (w : Word) : Except DecodeError Instr :=
  match (kkField w).toNat with
  | 0x07 => .ok (.ldVxDt (xField w))
  | 0x0A => .ok (.ldVxK (xField w))
  | 0x15 => .ok (.ldDtVx (xField w))
  | 0x18 => .ok (.ldStVx (xField w))
  | 0x1E => .ok (.addIVx (xField w))
  | 0x29 => .ok (.ldFVx (xField w))
  | 0x33 => .ok (.ldBVx (xField w))
  | 0x55 => .ok (.ldMemVx (xField w))
  | 0x65 => .ok (.ldVxMem (xField w))
  | _ => .error (.invalidOpcode w)

/-- The decode function of R96: first on `op`, then on the sub-field of classes 0, 8, E and F (R95). A class-0 word other than
CLS and RET decodes to SYS, whose meaning raises `UnsupportedInstruction` (R141). The last arm is the "unmapped top-level class" of
R103, which no word reaches. -/
def decode (w : Word) : Except DecodeError Instr :=
  match (opField w).toNat with
  | 0x0 => .ok (decodeClass0 w)
  | 0x1 => .ok (.jp (nnnField w))
  | 0x2 => .ok (.call (nnnField w))
  | 0x3 => .ok (.seImm (xField w) (kkField w))
  | 0x4 => .ok (.sneImm (xField w) (kkField w))
  | 0x5 => .ok (.seReg (xField w) (yField w) (nField w))
  | 0x6 => .ok (.ldImm (xField w) (kkField w))
  | 0x7 => .ok (.addImm (xField w) (kkField w))
  | 0x8 => decodeClass8 w
  | 0x9 => .ok (.sneReg (xField w) (yField w) (nField w))
  | 0xA => .ok (.ldI (nnnField w))
  | 0xB => .ok (.jpV0 (nnnField w))
  | 0xC => .ok (.rnd (xField w) (kkField w))
  | 0xD => .ok (.drw (xField w) (yField w) (nField w))
  | 0xE => decodeClassE w
  | 0xF => decodeClassF w
  | _ => .error (.invalidOpcode w)

/-- The word two bytes make, the first in the high half: `{MEM[a], MEM[a+1]}` (R62, R91). -/
def wordOfBytes (hi lo : Byte) : Word := hi ++ lo

/-- The byte of a word stored at the lower address, `w[15:8]` (R63). -/
def highByte (w : Word) : Byte := w.extractLsb' 8 8

/-- The byte of a word stored at the higher address, `w[7:0]` (R63). -/
def lowByte (w : Word) : Byte := w.extractLsb' 0 8

/-- The instruction at the front of a list of bytes, with the bytes after it. -/
def decodeBytes : List Byte → Except DecodeError (Instr × List Byte)
  | hi :: lo :: rest =>
    match decode (wordOfBytes hi lo) with
    | .ok i => .ok (i, rest)
    | .error e => .error e
  | _ => .error .truncated

/-! ### The encoder -/

/-- `{op, x, y, n}` (R92). -/
def packXyn (op x y n : Nibble) : Word := op ++ x ++ y ++ n
/-- `{op, x, kk}` (R92). -/
def packXkk (op x : Nibble) (kk : Byte) : Word := op ++ x ++ kk
/-- `{op, nnn}` (R92). -/
def packNnn (op : Nibble) (nnn : Addr12) : Word := op ++ nnn

/-- The word of an instruction (R97). -/
def encode : Instr → Word
  | .cls => 0x00E0#16
  | .ret => 0x00EE#16
  | .sys nnn => packNnn 0x0#4 nnn
  | .jp nnn => packNnn 0x1#4 nnn
  | .call nnn => packNnn 0x2#4 nnn
  | .seImm x kk => packXkk 0x3#4 x kk
  | .sneImm x kk => packXkk 0x4#4 x kk
  | .seReg x y n => packXyn 0x5#4 x y n
  | .ldImm x kk => packXkk 0x6#4 x kk
  | .addImm x kk => packXkk 0x7#4 x kk
  | .ldReg x y => packXyn 0x8#4 x y 0x0#4
  | .orReg x y => packXyn 0x8#4 x y 0x1#4
  | .andReg x y => packXyn 0x8#4 x y 0x2#4
  | .xorReg x y => packXyn 0x8#4 x y 0x3#4
  | .addReg x y => packXyn 0x8#4 x y 0x4#4
  | .subReg x y => packXyn 0x8#4 x y 0x5#4
  | .shr x y => packXyn 0x8#4 x y 0x6#4
  | .subnReg x y => packXyn 0x8#4 x y 0x7#4
  | .shl x y => packXyn 0x8#4 x y 0xE#4
  | .sneReg x y n => packXyn 0x9#4 x y n
  | .ldI nnn => packNnn 0xA#4 nnn
  | .jpV0 nnn => packNnn 0xB#4 nnn
  | .rnd x kk => packXkk 0xC#4 x kk
  | .drw x y n => packXyn 0xD#4 x y n
  | .skp x => packXkk 0xE#4 x 0x9E#8
  | .sknp x => packXkk 0xE#4 x 0xA1#8
  | .ldVxDt x => packXkk 0xF#4 x 0x07#8
  | .ldVxK x => packXkk 0xF#4 x 0x0A#8
  | .ldDtVx x => packXkk 0xF#4 x 0x15#8
  | .ldStVx x => packXkk 0xF#4 x 0x18#8
  | .addIVx x => packXkk 0xF#4 x 0x1E#8
  | .ldFVx x => packXkk 0xF#4 x 0x29#8
  | .ldBVx x => packXkk 0xF#4 x 0x33#8
  | .ldMemVx x => packXkk 0xF#4 x 0x55#8
  | .ldVxMem x => packXkk 0xF#4 x 0x65#8

/-- The bytes of an instruction as memory holds them, the high byte first (R62). -/
def encodeBytes (i : Instr) : List Byte := [highByte (encode i), lowByte (encode i)]

/-- A table word as the one 16-bit word it is: the low `nbits` bits of `w`, every bit above them 0. -/
def tableWord (nbits w : Nat) : Word := BitVec.ofNat 16 (w % 2 ^ nbits)

/-- The instruction the decoder reads from a table word, laid out in bytes as memory holds it. -/
def decodeTableWord (nbits w : Nat) : Option Instr :=
  match decodeBytes [highByte (tableWord nbits w), lowByte (tableWord nbits w)] with
  | .ok (i, _) => some i
  | .error _ => none

end Sys2Proof
end

