-- ==== Sys2Proof/Machine/Font.lean ====
section
/-! DEFINITION. The spec's default for each parameter of spec/00_scope.md R7, the built-in font among them
(spec/10_state.md R31). -/

namespace Sys2Proof.Machine

/-- FONT_DATA: sixteen glyphs of five bytes, digit 0 first (R31; the bytes are the spec's decision D18). -/
def fontGlyphs : Vector Byte 80 :=
  #v[0xF0#8, 0x90#8, 0x90#8, 0x90#8, 0xF0#8,   -- 0
     0x20#8, 0x60#8, 0x20#8, 0x20#8, 0x70#8,   -- 1
     0xF0#8, 0x10#8, 0xF0#8, 0x80#8, 0xF0#8,   -- 2
     0xF0#8, 0x10#8, 0xF0#8, 0x10#8, 0xF0#8,   -- 3
     0x90#8, 0x90#8, 0xF0#8, 0x10#8, 0x10#8,   -- 4
     0xF0#8, 0x80#8, 0xF0#8, 0x10#8, 0xF0#8,   -- 5
     0xF0#8, 0x80#8, 0xF0#8, 0x90#8, 0xF0#8,   -- 6
     0xF0#8, 0x10#8, 0x20#8, 0x40#8, 0x40#8]   -- 7
  ++
  #v[0xF0#8, 0x90#8, 0xF0#8, 0x90#8, 0xF0#8,   -- 8
     0xF0#8, 0x90#8, 0xF0#8, 0x10#8, 0xF0#8,   -- 9
     0xF0#8, 0x90#8, 0xF0#8, 0x90#8, 0x90#8,   -- A
     0xE0#8, 0x90#8, 0xE0#8, 0x90#8, 0xE0#8,   -- B
     0xF0#8, 0x80#8, 0x80#8, 0x80#8, 0xF0#8,   -- C
     0xE0#8, 0x90#8, 0x90#8, 0x90#8, 0xE0#8,   -- D
     0xF0#8, 0x80#8, 0xF0#8, 0x80#8, 0xF0#8,   -- E
     0xF0#8, 0x80#8, 0xF0#8, 0x80#8, 0x80#8]   -- F

/-- The defaults of R7: FONT_BASE 0x000 (D17), the conventional font (D18), `Wrap` (D14), `LowNibble` (D20), no trace (D31). -/
def defaultConfig : Config where
  fontBase := 0x000#12
  fontData := fontGlyphs
  spriteEdge := .wrap
  keyIndexHigh := .lowNibble
  traceEnabled := false

end Sys2Proof.Machine
end

