-- ==== Sys2Proof/Machine/State.lean ====
section
/-! DEFINITION. The state of the machine: every piece of state spec/10_state.md gives the core and its collaborators, as plain data,
the reasons a step can stop, and the state after construction (R40). -/

namespace Sys2Proof.Machine

/-- Memory: the cells whose value is not the one they have after reset, by rising address (R30, R60). `Memory.wf` of Ops.lean says
the form; a cell that is not listed reads as `initialByte` of Ops.lean says. -/
abbrev Memory := List Host.Cell

/-- The display buffer DISP, 64 columns of 32 pixels, `true` for on (R34). -/
abbrev Display := Vector (Vector Bool 32) 64

/-- The six fatal errors of R260. -/
inductive CoreError where
  | unsupportedInstruction
  | invalidOpcode
  | stackOverflow
  | stackUnderflow
  | outOfBoundsFetch
  | outOfBoundsMemoryAccess
  deriving DecidableEq, Repr

/-- What the loader is given (R302): bytes, or words that it stores high byte first (R63). -/
inductive Image where
  | bytes (bs : List Byte)
  | words (ws : List Word)
  deriving DecidableEq, Repr

/-- The operations the host can perform on the core (R50). -/
inductive HostOp where
  | executeOne
  | tickTimers
  | setKey (k : Key) (pressed : Bool)
  | loadProgram (image : Image)
  | reset
  deriving DecidableEq, Repr

structure State where
  /-- V0 to VF (R20). -/
  v : Vector Byte 16
  /-- The address register I (R23). -/
  I : Word
  /-- The program counter (R24). -/
  pc : Word
  /-- SP, the depth of the call stack, 0 to 16 (R28). -/
  sp : Fin 17
  /-- STACK[0..15] (R28). -/
  stack : Vector Word 16
  /-- The delay timer DT (R32). -/
  dt : Byte
  /-- The sound timer ST (R32). -/
  st : Byte
  /-- MEM (R30). -/
  mem : Memory
  /-- KEYS[0..15], `true` for pressed (R33). -/
  keys : Vector Bool 16
  /-- DISP (R34). -/
  disp : Display
  /-- AWAIT (R35). -/
  awaiting : Bool
  /-- AWAIT_REG (R35). -/
  awaitReg : RegIx
  /-- FAULT_CODE, 3 bits, 0 for no fault (R36). -/
  faultCode : BitVec 3
  /-- FAULT_PC (R36). -/
  faultPc : Word
  /-- FAULT_WORD (R36). -/
  faultWord : Word
  /-- The model's own: how many bytes the random source has given (R37; assumption 3). -/
  draws : Nat
  /-- The parameters of the machine, R7; no operation changes them (assumption 4). -/
  cfg : Config
  /-- The model's own: the operations the host performs next, the first first; when it is empty the host calls `execute_one`
  (R73; assumption 2). -/
  pending : List HostOp
  deriving DecidableEq, Repr

/-- Why a step can stop with a fault: it cannot. Every error of the spec (R260) records itself in the state and the machine stays in
that state (R267, R268), so an error is a next state, not a stop; the type has no constructor, which is safe (assumption 1). -/
inductive Fault where
  deriving DecidableEq, Repr

/-- Why a step can be refused. -/
inductive Refusal where
  /-- Raised by `exec` for an instruction that has no meaning yet: none is left. Safe: nothing can be proved of such a step. -/
  | notModelled (mnemonic : String)
  /-- Raised by Ex9E and ExA1 when Vx is 16 or more on a machine whose parameter KEY_INDEX_HIGH is `Refuse`, which R235 says is a
  refusal of the model. Safe: nothing can be proved of such a step. `State.reset` has `LowNibble` and never refuses. -/
  | keyIndexAbove15
  deriving DecidableEq, Repr

/-- The outcome of a step or of an instruction. -/
abbrev Result := Host.Outcome State Fault Refusal

/-- The state after construction, and after reset from it (R40, R300), with the parameters' defaults. -/
def State.reset : State where
  v := Vector.replicate 16 0#8
  I := 0x0000#16
  pc := 0x0200#16
  sp := 0
  stack := Vector.replicate 16 0x0000#16
  dt := 0#8
  st := 0#8
  mem := []
  keys := Vector.replicate 16 false
  disp := Vector.replicate 64 (Vector.replicate 32 false)
  awaiting := false
  awaitReg := 0#4
  faultCode := 0#3
  faultPc := 0x0000#16
  faultWord := 0x0000#16
  draws := 0
  cfg := defaultConfig
  pending := []

end Sys2Proof.Machine
end

