-- ==== Sys2Proof/Machine/Ops.lean ====
section
/-! DEFINITION. The named operations over the state: memory, registers, the program counter, the call stack, the timers, the
display, the keypad and the random source, and raising an error (spec/00_scope.md R10 to R13). -/

namespace Sys2Proof.Machine

/-! ### Memory (spec/20_memory.md) -/

/-- What a cell holds after reset: FONT_DATA from FONT_BASE on, 0 elsewhere (R40, R69). A cell that is not listed reads as this. -/
def initialByte (cfg : Config) (a : Nat) : Byte :=
  if h : cfg.fontBase.toNat ≤ a ∧ a - cfg.fontBase.toNat < 80 then cfg.fontData[a - cfg.fontBase.toNat] else 0#8

/-- The listed value of a cell. -/
def memFind : Memory → Nat → Option Byte
  | [], _ => none
  | (k, b) :: m, a => if k = a then some b else memFind m a

/-- The list with the cell at `a` holding `b`: put in its place, or taken out when `b` is what an unlisted cell reads as. -/
def memPut (cfg : Config) : Memory → Nat → Byte → Memory
  | [], a, b => if b = initialByte cfg a then [] else [(a, b)]
  | (k, c) :: m, a, b =>
    if a < k then (if b = initialByte cfg a then (k, c) :: m else (a, b) :: (k, c) :: m)
    else if a = k then (if b = initialByte cfg a then m else (a, b) :: m)
    else (k, c) :: memPut cfg m a b

/-- The canonical form from address `lo` on: rising addresses of real cells, none holding its reset value. -/
def memWfFrom (cfg : Config) : Nat → Memory → Bool
  | _, [] => true
  | lo, (a, b) :: m => decide (lo ≤ a) && decide (a < memSize) && (b != initialByte cfg a) && memWfFrom cfg (a + 1) m

/-- The canonical form of memory; equal memories are then equal lists. -/
def Memory.wf (cfg : Config) (m : Memory) : Bool := memWfFrom cfg 0 m

/-- `MemRead(a, 1)` (R11), for `a` below 4096. -/
def State.readByte (s : State) (a : Nat) : Byte := (memFind s.mem a).getD (initialByte s.cfg a)

/-- `MemWrite(a, 1, b)` (R11), for `a` below 4096. -/
def State.writeByte (s : State) (a : Nat) (b : Byte) : State := { s with mem := memPut s.cfg s.mem a b }

/-- The `n` bytes at `a`, `a + 1`, and on, by exact addresses (R65, R67). -/
def State.readBytes (s : State) (a : Nat) : Nat → List Byte
  | 0 => []
  | n + 1 => s.readByte a :: s.readBytes (a + 1) n

/-- Bytes written at `a`, `a + 1`, and on, in that order (R65, R67). -/
def State.writeBytes (s : State) (a : Nat) : List Byte → State
  | [] => s
  | b :: bs => (s.writeByte a b).writeBytes (a + 1) bs

/-! ### Registers (spec/10_state.md R20 to R24) -/

/-- `V[r]` -/
def State.readV (s : State) (r : RegIx) : Byte := s.v[r.toNat]'r.isLt

/-- `V[r] <- b` -/
def State.setV (s : State) (r : RegIx) (b : Byte) : State := { s with v := s.v.set r.toNat b r.isLt }

/-- `VF <- b` (R22). -/
def State.setVF (s : State) (b : Byte) : State := s.setV vfIx b

/-- The values of V0 to Vx, in that order: the source of Fx55 (R94). -/
def State.readVs (s : State) (x : RegIx) : List Byte := (List.range (x.toNat + 1)).map fun k => s.readV (BitVec.ofNat 4 k)

/-- Bytes written to V[k], V[k+1], and on, in that order: the destination of Fx65 (R94). -/
def State.setVs (s : State) (k : Nat) : List Byte → State
  | [] => s
  | b :: bs => (s.setV (BitVec.ofNat 4 k) b).setVs (k + 1) bs

/-- `I <- w` -/
def State.setI (s : State) (w : Word) : State := { s with I := w }

/-- `PC <- w`; the target is not checked (R149). -/
def State.setPc (s : State) (w : Word) : State := { s with pc := w }

/-- The fetch's advance of PC by 2 (R124). -/
def State.advance (s : State) : State := s.setPc (s.pc + 2#16)

/-- `skip`: PC advances by an additional 2 (R127). -/
def State.skip (s : State) : State := s.setPc (s.pc + 2#16)

/-- `skip` where `c` holds. -/
def State.skipIf (s : State) (c : Bool) : State := if c then s.skip else s

/-! ### Call stack (R28, R29) -/

/-- Push a return address; `none` where SP = 16 (R143). -/
def State.push (s : State) (w : Word) : Option State :=
  if h : s.sp.val < 16 then some { s with stack := s.stack.set s.sp.val w h, sp := ⟨s.sp.val + 1, by omega⟩ } else none

/-- Pop a return address; `none` where SP = 0 (R140). The slot keeps its value (R28). -/
def State.pop (s : State) : Option (Word × State) :=
  if h : 0 < s.sp.val then
    some (s.stack[s.sp.val - 1]'(by omega), { s with sp := ⟨s.sp.val - 1, by omega⟩ })
  else none

/-! ### Timers (R32, R276) -/

/-- `DT <- b` -/
def State.setDT (s : State) (b : Byte) : State := { s with dt := b }

/-- `ST <- b` -/
def State.setST (s : State) (b : Byte) : State := { s with st := b }

/-- A timer after one tick: one less, or 0 where it was 0 (R277). -/
def tickByte (b : Byte) : Byte := if 0 < b.toNat then b - 1#8 else b

/-! ### Keypad and the wait for a key (R33, R35, R53) -/

/-- `KeyPressed(k)` -/
def State.keyPressed (s : State) (k : Key) : Bool := s.keys[k.toNat]'k.isLt

/-- `KEYS[k] <- p` -/
def State.writeKey (s : State) (k : Key) (p : Bool) : State := { s with keys := s.keys.set k.toNat p k.isLt }

/-- The suspension of Fx0A: AWAIT set, AWAIT_REG naming the destination (R237). -/
def State.startWait (s : State) (x : RegIx) : State := { s with awaiting := true, awaitReg := x }

/-- The end of the wait: `AWAIT <- 0` (R238). -/
def State.endWait (s : State) : State := { s with awaiting := false }

/-! ### Display (R34, R52) -/

/-- DISP[px][py]. -/
def pixel (d : Display) (px : Fin 64) (py : Fin 32) : Bool := d[px][py]

/-- `DisplayPlotXor(px, py)`: the display with the pixel inverted, and the pixel's value before (R52). -/
def plotXor (d : Display) (px : Fin 64) (py : Fin 32) : Display × Bool :=
  (d.set px (d[px].set py (!pixel d px py)), pixel d px py)

/-- `DisplayPlotXor` of each pixel of a list in turn, and whether one of the calls returned 1 (R231, R232). -/
def plotAll : List (Fin 64 × Fin 32) → Display → Display × Bool
  | [], d => (d, false)
  | p :: ps, d => ((plotAll ps (plotXor d p.1 p.2).1).1, (plotXor d p.1 p.2).2 || (plotAll ps (plotXor d p.1 p.2).1).2)

/-- Every pixel off. -/
def blankDisplay : Display := Vector.replicate 64 (Vector.replicate 32 false)

/-- The display replaced. -/
def State.setDisp (s : State) (d : Display) : State := { s with disp := d }

/-- `DisplayClear()` (R52). -/
def State.clearDisplay (s : State) : State := s.setDisp blankDisplay

/-! ### Random source (R54) -/

/-- `RandomByte()`: the free value of this draw. -/
def State.randomByte (s : State) : Byte := Config.randomByte s.draws

/-- The source after the draw. -/
def State.countDraw (s : State) : State := { s with draws := s.draws + 1 }

/-! ### Errors (spec/60_exceptions.md) -/

/-- The code of an error (R260). -/
def CoreError.code : CoreError → BitVec 3
  | .unsupportedInstruction => 1#3
  | .invalidOpcode => 2#3
  | .stackOverflow => 3#3
  | .stackUnderflow => 4#3
  | .outOfBoundsFetch => 5#3
  | .outOfBoundsMemoryAccess => 6#3

/-- Taking an error, `fail(E, a, w)` of R122: PC is back at the instruction's address `a` (R126) and the fault record holds the
error's code, `a` and the word `w` (R267). No handler, no mode, no push (R270). -/
def State.latch (s : State) (e : CoreError) (a w : Word) : State :=
  { s with pc := a, faultCode := e.code, faultPc := a, faultWord := w }

/-- The address of the instruction that is executing: PC holds that address plus 2 (R24, R125). -/
def State.instrAddr (s : State) : Word := s.pc - 2#16

/-- `raise E` in the meaning of instruction `i` (R12): every meaning raises before it writes (R121), so the state differs from the
one at the start of the call by the fault record alone; the word is the one `i` was decoded from. -/
def raiseError (e : CoreError) (i : Instr) (s : State) : Result := .next (s.latch e s.instrAddr (encode i))

/-- There is no return from an error (R270): the fault record is cleared by reset alone (R268, R301). -/
def State.clearFault (s : State) : State := { s with faultCode := 0#3, faultPc := 0#16, faultWord := 0#16 }

/-! ### Fetch (spec/40_cycle.md R123, R124) -/

/-- The fetch bounds check, on the exact sum (R123). -/
def State.fetchable (s : State) : Bool := decide (s.pc.toNat + 1 ≤ 4095)

/-- The word at PC, big-endian, or `none` where the bounds check fails and no byte is read (R123, R124). -/
def State.fetch (s : State) : Option Word :=
  if s.fetchable then some (wordOfBytes (s.readByte s.pc.toNat) (s.readByte (s.pc.toNat + 1))) else none

end Sys2Proof.Machine
end

