-- ==== Sys2Proof/Machine/Operands.lean ====
section
/-! DEFINITION. The operand forms: the addressing modes of spec/43_index_memory.md R206, the glyph address, the key index, the
decimal digits, and the pixels of a sprite. -/

namespace Sys2Proof.Machine

/-- A 12-bit address as a 16-bit value, zero-extended (R94). -/
def zextAddr (nnn : Addr12) : Word := nnn.setWidth 16

/-- A byte as a 16-bit value, zero-extended. -/
def zextByte (b : Byte) : Word := b.setWidth 16

/-- Whether all of the `n` addresses `base`, `base + 1`, and on, are below 4096, by exact sums; no address is checked where `n` is 0
(R64, R65, R231). -/
def blockInBounds (base : Word) (n : Nat) : Bool := decide (n = 0 ∨ base.toNat + n ≤ memSize)

/-- The target of Bnnn: `nnn + V0`, which fits 16 bits (R148). -/
def indexedTarget (nnn : Addr12) (v0 : Byte) : Word := zextAddr nnn + zextByte v0

/-- The address of the glyph for the low nibble of a byte: `FONT_BASE + 5 * (v & 0x0F)` (R202). -/
def glyphAddress (cfg : Config) (v : Byte) : Word := BitVec.ofNat 16 (cfg.fontBase.toNat + 5 * (v &&& 0x0F#8).toNat)

/-- The key a byte names: itself below 16; above, its low nibble under `LowNibble` and nothing under `Refuse` (R235). -/
def keyIndex (cfg : Config) (v : Byte) : Option Key :=
  if v.toNat < 16 then some (v.setWidth 4)
  else match cfg.keyIndexHigh with
    | .lowNibble => some ((v &&& 0x0F#8).setWidth 4)
    | .refuse => none

/-- Hundreds, tens and ones of a byte (R203). -/
def bcdDigits (v : Byte) : List Byte :=
  [BitVec.ofNat 8 (v.toNat / 100), BitVec.ofNat 8 (v.toNat / 10 % 10), BitVec.ofNat 8 (v.toNat % 10)]

/-- A pixel brought onto the screen: both coordinates wrapped, or nothing where it is beyond an edge that clips (R231, D14). -/
def placePixel : SpriteEdge → Nat → Nat → Option (Fin 64 × Fin 32)
  | .wrap, px, py => some (Fin.ofNat 64 px, Fin.ofNat 32 py)
  | .clip, px, py => if h : px < 64 ∧ py < 32 then some (⟨px, h.1⟩, ⟨py, h.2⟩) else none

/-- The pixels that one sprite byte plots in row `py` from column `x0` on: bit 7 is the leftmost (R231, D15). -/
def rowPixels (edge : SpriteEdge) (x0 py : Nat) (b : Byte) : List (Fin 64 × Fin 32) :=
  (List.range 8).filterMap fun c => if b.getLsbD (7 - c) then placePixel edge (x0 + c) py else none

/-- The pixels that a sprite plots, row by row downward from row `py` (R231). -/
def spritePixels (edge : SpriteEdge) (x0 : Nat) : Nat → List Byte → List (Fin 64 × Fin 32)
  | _, [] => []
  | py, b :: bs => rowPixels edge x0 py b ++ spritePixels edge x0 (py + 1) bs

/-- The pixels that `Dxyn` plots in a state: the `n` bytes at I, from column `V[x] mod 64` and row `V[y] mod 32` (R231). -/
def State.drawnPixels (s : State) (x y : RegIx) (n : Nibble) : List (Fin 64 × Fin 32) :=
  spritePixels s.cfg.spriteEdge ((s.readV x).toNat % 64) ((s.readV y).toNat % 32) (s.readBytes s.I.toNat n.toNat)

end Sys2Proof.Machine
end

