-- ==== Sys2Proof/Machine/Alu.lean ====
section
/-! DEFINITION. The meanings of the arithmetic and logic instructions (spec/42_alu.md). Operands are read before any register is
written, and the flag is written after the result (R128, D7). -/

namespace Sys2Proof.Machine

/-- R170 -/
def execLdImm (x : RegIx) (kk : Byte) (s : State) : Result := .next (s.setV x kk)

/-- R171 -/
def execAddImm (x : RegIx) (kk : Byte) (s : State) : Result := .next (s.setV x (s.readV x + kk))

/-- R172 -/
def execLdReg (x y : RegIx) (s : State) : Result := .next (s.setV x (s.readV y))

/-- R173 -/
def execOrReg (x y : RegIx) (s : State) : Result := .next (s.setV x (s.readV x ||| s.readV y))

/-- R174 -/
def execAndReg (x y : RegIx) (s : State) : Result := .next (s.setV x (s.readV x &&& s.readV y))

/-- R175 -/
def execXorReg (x y : RegIx) (s : State) : Result := .next (s.setV x (s.readV x ^^^ s.readV y))

/-- R176 -/
def execAddReg (x y : RegIx) (s : State) : Result :=
  .next ((s.setV x (s.readV x + s.readV y)).setVF (carryFlag (s.readV x) (s.readV y)))

/-- R177 -/
def execSubReg (x y : RegIx) (s : State) : Result :=
  .next ((s.setV x (s.readV x - s.readV y)).setVF (noBorrowFlag (s.readV x) (s.readV y)))

/-- R178: a logical shift of Vx; `y` is ignored -/
def execShr (x _y : RegIx) (s : State) : Result :=
  .next ((s.setV x (s.readV x >>> 1)).setVF (shiftRightFlag (s.readV x)))

/-- R179 -/
def execSubnReg (x y : RegIx) (s : State) : Result :=
  .next ((s.setV x (s.readV y - s.readV x)).setVF (noBorrowFlag (s.readV y) (s.readV x)))

/-- R180: `y` is ignored -/
def execShl (x _y : RegIx) (s : State) : Result :=
  .next ((s.setV x (s.readV x <<< 1)).setVF (shiftLeftFlag (s.readV x)))

/-- R181: one draw, whatever `kk` is -/
def execRnd (x : RegIx) (kk : Byte) (s : State) : Result := .next (s.countDraw.setV x (s.randomByte &&& kk))

end Sys2Proof.Machine
end

