-- ==== Sys2Proof/Machine/Control.lean ====
section
/-! DEFINITION. The meanings of the control-flow instructions (spec/41_control_flow.md). On entry PC is the instruction's address
plus 2 (R125). -/

namespace Sys2Proof.Machine

/-- R140 -/
def execRet (s : State) : Result :=
  match s.pop with
  | some (target, t) => .next (t.setPc target)
  | none => raiseError .stackUnderflow .ret s

/-- R141 -/
def execSys (nnn : Addr12) (s : State) : Result := raiseError .unsupportedInstruction (.sys nnn) s

/-- R142 -/
def execJp (nnn : Addr12) (s : State) : Result := .next (s.setPc (zextAddr nnn))

/-- R143 -/
def execCall (nnn : Addr12) (s : State) : Result :=
  match s.push s.pc with
  | some t => .next (t.setPc (zextAddr nnn))
  | none => raiseError .stackOverflow (.call nnn) s

/-- R144 -/
def execSeImm (x : RegIx) (kk : Byte) (s : State) : Result := .next (s.skipIf (s.readV x == kk))

/-- R145 -/
def execSneImm (x : RegIx) (kk : Byte) (s : State) : Result := .next (s.skipIf (s.readV x != kk))

/-- R146; any `n` (R99, D5) -/
def execSeReg (x y : RegIx) (_n : Nibble) (s : State) : Result := .next (s.skipIf (s.readV x == s.readV y))

/-- R147; any `n` (R99, D5) -/
def execSneReg (x y : RegIx) (_n : Nibble) (s : State) : Result := .next (s.skipIf (s.readV x != s.readV y))

/-- R148: the index is V0 -/
def execJpV0 (nnn : Addr12) (s : State) : Result := .next (s.setPc (indexedTarget nnn (s.readV 0#4)))

end Sys2Proof.Machine
end

