-- ==== Sys2Proof/Machine/Display.lean ====
section
/-! DEFINITION. The meanings of the display, key and timer instructions (spec/44_display_keys_timers.md). -/

namespace Sys2Proof.Machine

/-- R230 -/
def execCls (s : State) : Result := .next s.clearDisplay

/-- R231, R232: every sprite address is checked before a pixel changes (D11); with `n` = 0 nothing is read or drawn and VF is 0
(D16) -/
def execDrw (x y : RegIx) (n : Nibble) (s : State) : Result :=
  if blockInBounds s.I n.toNat then
    .next ((s.setDisp (plotAll (s.drawnPixels x y n) s.disp).1).setVF (flagByte (plotAll (s.drawnPixels x y n) s.disp).2))
  else raiseError .outOfBoundsMemoryAccess (.drw x y n) s

/-- R233: the level of the key (D22) -/
def execSkp (x : RegIx) (s : State) : Result :=
  match keyIndex s.cfg (s.readV x) with
  | some k => .next (s.skipIf (s.keyPressed k))
  | none => .refused .keyIndexAbove15

/-- R234: the level of the key (D22) -/
def execSknp (x : RegIx) (s : State) : Result :=
  match keyIndex s.cfg (s.readV x) with
  | some k => .next (s.skipIf (!s.keyPressed k))
  | none => .refused .keyIndexAbove15

/-- R236 -/
def execLdVxDt (x : RegIx) (s : State) : Result := .next (s.setV x s.dt)

/-- R237: PC stays at the address plus 2 and Vx is written by the key event that ends the wait (D21) -/
def execLdVxK (x : RegIx) (s : State) : Result := .next (s.startWait x)

/-- R239 -/
def execLdDtVx (x : RegIx) (s : State) : Result := .next (s.setDT (s.readV x))

/-- R240 -/
def execLdStVx (x : RegIx) (s : State) : Result := .next (s.setST (s.readV x))

end Sys2Proof.Machine
end

