-- ==== Sys2Proof/Machine/Index.lean ====
section
/-! DEFINITION. The meanings of the address-register and memory block-transfer instructions (spec/43_index_memory.md). Every address
of a block is checked before the first access (R64), and I is unchanged by a block transfer (D12). -/

namespace Sys2Proof.Machine

/-- R200 -/
def execLdI (nnn : Addr12) (s : State) : Result := .next (s.setI (zextAddr nnn))

/-- R201: wraps at 16 bits, no flag, no fault -/
def execAddIVx (x : RegIx) (s : State) : Result := .next (s.setI (s.I + zextByte (s.readV x)))

/-- R202 -/
def execLdFVx (x : RegIx) (s : State) : Result := .next (s.setI (glyphAddress s.cfg (s.readV x)))

/-- R203 -/
def execLdBVx (x : RegIx) (s : State) : Result :=
  if blockInBounds s.I 3 then .next (s.writeBytes s.I.toNat (bcdDigits (s.readV x)))
  else raiseError .outOfBoundsMemoryAccess (.ldBVx x) s

/-- R204 -/
def execLdMemVx (x : RegIx) (s : State) : Result :=
  if blockInBounds s.I (x.toNat + 1) then .next (s.writeBytes s.I.toNat (s.readVs x))
  else raiseError .outOfBoundsMemoryAccess (.ldMemVx x) s

/-- R205 -/
def execLdVxMem (x : RegIx) (s : State) : Result :=
  if blockInBounds s.I (x.toNat + 1) then .next (s.setVs 0 (s.readBytes s.I.toNat (x.toNat + 1)))
  else raiseError .outOfBoundsMemoryAccess (.ldVxMem x) s

end Sys2Proof.Machine
end

