-- ==== Sys2Proof/Machine/Execute.lean ====
section
/-! DEFINITION. The operations the core offers the host (spec/10_state.md R50): `execute_one` (spec/40_cycle.md R122),
`tick_timers` (spec/60_exceptions.md R277), `set_key` (spec/44_display_keys_timers.md R238), `load_program` and `reset`
(spec/70_reset_and_hazards.md R302, R301). -/

namespace Sys2Proof.Machine

/-- R122, in the order of R271: a latched fault, the wait for a key, the fetch, the decode, the instruction. A latched core and a
waiting core change nothing. -/
def executeOne (s : State) : Result :=
  if s.faultCode ≠ 0#3 then .next s
  else if s.awaiting then .next s
  else match s.fetch with
    | none => .next (s.latch .outOfBoundsFetch s.pc 0x0000#16)
    | some w => match decode w with
      | .error _ => .next (s.latch .invalidOpcode s.pc w)
      | .ok i => exec i s.advance

/-- R277 -/
def tickTimers (s : State) : State := (s.setDT (tickByte s.dt)).setST (tickByte s.st)

/-- Whether `set_key(k, p)` is a key-press transition (R238). -/
def State.isPress (s : State) (k : Key) (p : Bool) : Bool := p && !s.keyPressed k

/-- R238 -/
def setKey (k : Key) (p : Bool) (s : State) : State :=
  if s.awaiting && s.isPress k p then ((s.writeKey k p).setV s.awaitReg (k.setWidth 8)).endWait else s.writeKey k p

/-- The bytes of an image; words are stored high byte first (R63). -/
def Image.toBytes : Image → List Byte
  | .bytes bs => bs
  | .words ws => ws.flatMap fun w => [highByte w, lowByte w]

/-- The result of `load_program` (R302). -/
inductive LoadResult where
  | loaded
  | imageTooLarge
  deriving DecidableEq, Repr

/-- What `load_program` returns (R302). -/
def loadResult (image : Image) : LoadResult := if image.toBytes.length ≤ maxImage then .loaded else .imageTooLarge

/-- R302: an image longer than 3584 bytes changes nothing (D29) -/
def loadProgram (image : Image) (s : State) : State :=
  match loadResult image with
  | .loaded => s.writeBytes progBase image.toBytes
  | .imageTooLarge => s

/-- R301: the construction state, but for KEYS, which reset does not change, and the random source (D27); the parameters and the
host's further operations are no state of the core. -/
def hostReset (s : State) : State :=
  { State.reset with keys := s.keys, draws := s.draws, cfg := s.cfg, pending := s.pending }

/-- The operation the host performs next: the first pending one, or `execute_one` where none is pending. -/
def State.nextOp (s : State) : HostOp := s.pending.headD .executeOne

/-- The state once the next operation is taken from the pending ones. -/
def State.takeOp (s : State) : State := { s with pending := s.pending.tail }

/-- One operation of the host (R50), one atomic transition (R51). -/
def perform : HostOp → State → Result
  | .executeOne, s => executeOne s
  | .tickTimers, s => .next (tickTimers s)
  | .setKey k p, s => .next (setKey k p s)
  | .loadProgram image, s => .next (loadProgram image s)
  | .reset, s => .next (hostReset s)

end Sys2Proof.Machine
end

