-- ==== Sys2Proof/Machine/Step.lean ====
section
/-! DEFINITION. One step of the machine: the host's next operation (spec/20_memory.md R73). -/

namespace Sys2Proof.Machine

/-- The operations of R50 happen one after the other, in an order that is the host's (R51, R73): a step performs the next one. -/
def step (s : State) : Host.Outcome State Fault Refusal := perform s.nextOp s.takeOp

/-- A state whose next step fetches and runs the word: no operation pending, no fault latched, no wait, PC at a fetchable address
(0x200 where it was not), and the word stored there big-endian. -/
def State.withFetchWord (s : State) (nbits w : Nat) : State :=
  let a : Word := if s.fetchable then s.pc else 0x200#16
  let t := if s.faultCode = 0#3 then s else s.clearFault
  { (t.setPc a).writeBytes a.toNat [highByte (tableWord nbits w), lowByte (tableWord nbits w)] with
    awaiting := false, pending := [] }

end Sys2Proof.Machine
end

