-- ==== Sys2Proof/Machine/Outputs.lean ====
section
/-! DEFINITION. The outputs of the core (spec/10_state.md R57) that are not fields of the state: the result and the trace record of
`execute_one`, and the sound output. -/

namespace Sys2Proof.Machine

/-- What `execute_one` returns (R120). -/
inductive StepResult where
  | executed (w : Word)
  | waiting
  | faulted (code : BitVec 3)
  deriving DecidableEq, Repr

/-- The trace record of R129: the word and the registers after the transition. -/
structure TraceRecord where
  w : Word
  v : Vector Byte 16
  I : Word
  pc : Word
  sp : Fin 17
  dt : Byte
  st : Byte
  deriving DecidableEq, Repr

/-- What `execute_one` returns in a state (R120, R122); `none` where the model refuses the instruction. -/
def stepResult (s : State) : Option StepResult :=
  if s.faultCode ≠ 0#3 then some (.faulted s.faultCode)
  else if s.awaiting then some .waiting
  else match executeOne s with
    | .next t => if t.faultCode ≠ 0#3 then some (.faulted t.faultCode) else s.fetch.map .executed
    | .fault _ => none
    | .refused _ => none

/-- The trace record that `execute_one` emits in a state: one for each `Executed` result where TRACE_ENABLED, else nothing (R129). -/
def traceRecord (s : State) : Option TraceRecord :=
  if s.cfg.traceEnabled then
    match stepResult s, executeOne s with
    | some (.executed w), .next t => some ⟨w, t.v, t.I, t.pc, t.sp, t.dt, t.st⟩
    | _, _ => none
  else none

/-- SOUND_ACTIVE (R42). -/
def soundActive (s : State) : Bool := s.st != 0#8

end Sys2Proof.Machine
end

