-- ==== Sys2Proof/Safety.lean ====
section
/-! DEFINITION. What a legal state is, what an operation may leave changed, and what a safe run is, in the terms the statements
use. -/

namespace Sys2Proof.Machine

/-- No fault is latched and no key is awaited: `execute_one` runs an instruction (R271). -/
def State.Running (s : State) : Prop := s.faultCode = 0#3 ∧ s.awaiting = false

/-- The states the machine can be in (an invariant of every operation): the parameters obey R7; memory is canonical; PC and every
stack slot are within the bounds of R27; a fault and a wait exclude each other (R271); the fault record is all zero without a fault
(R36, R40) and names PC with one, under one of the six codes of R260 (R126, R267). -/
structure State.Legal (s : State) : Prop where
  cfg : s.cfg.wf = true
  mem : Memory.wf s.cfg s.mem = true
  pc : s.pc.toNat ≤ 0x10FE
  stack : ∀ j : Fin 16, s.stack[j].toNat ≤ 4096
  wait : s.awaiting = true → s.faultCode = 0#3
  noFault : s.faultCode = 0#3 → s.faultPc = 0#16 ∧ s.faultWord = 0#16
  fault : s.faultCode ≠ 0#3 → s.faultPc = s.pc ∧ s.faultCode ≠ 7#3

/-- A safe run of `n` steps: no step is refused and no state on the way has a fault latched. -/
def State.SafeRun : Nat → State → Prop
  | 0, s => s.faultCode = 0#3
  | n + 1, s => s.faultCode = 0#3 ∧ ∃ t, step s = .next t ∧ t.SafeRun n

/-! ### What an instruction wrote

Each of these says the value written and that everything else is as before: each other register, each other field of the state
(`t = { s with … }`), and every byte of memory that is not stored to. -/

/-- Every byte of memory reads as before. -/
def SameBytes (s t : State) : Prop := ∀ a : Nat, t.readByte a = s.readByte a

/-- V[x] holds `b`, and nothing else changed. -/
def WroteV (s t : State) (x : RegIx) (b : Byte) : Prop :=
  t.readV x = b ∧ (∀ r, r ≠ x → t.readV r = s.readV r) ∧ t = { s with v := t.v } ∧ SameBytes s t

/-- VF holds the flag `f`, V[x] holds `b` where x is not VF, and nothing else changed. -/
def WroteVAndFlag (s t : State) (x : RegIx) (b f : Byte) : Prop :=
  t.readV vfIx = f ∧ (x ≠ vfIx → t.readV x = b) ∧ (∀ r, r ≠ x → r ≠ vfIx → t.readV r = s.readV r) ∧
    t = { s with v := t.v } ∧ SameBytes s t

/-- PC holds `w`, and nothing else changed. -/
def WrotePc (s t : State) (w : Word) : Prop :=
  t.pc = w ∧ (∀ r, t.readV r = s.readV r) ∧ t = { s with pc := t.pc } ∧ SameBytes s t

/-- I holds `w`, and nothing else changed. -/
def WroteI (s t : State) (w : Word) : Prop :=
  t.I = w ∧ (∀ r, t.readV r = s.readV r) ∧ t = { s with I := t.I } ∧ SameBytes s t

/-- The bytes `bs` stand in memory from address `a` on, every other byte reads as before, and nothing else changed. -/
def StoredBytes (s t : State) (a : Nat) (bs : List Byte) : Prop :=
  (∀ (k : Nat) (h : k < bs.length), t.readByte (a + k) = bs[k]) ∧
    (∀ c, c < a ∨ a + bs.length ≤ c → t.readByte c = s.readByte c) ∧
    (∀ r, t.readV r = s.readV r) ∧ t = { s with mem := t.mem }

/-- An error with this code was raised at address `a` by the word `w`: PC is at `a`, the fault record holds the three, and nothing
else changed (R126, R267). -/
def Raised (s t : State) (code : BitVec 3) (a w : Word) : Prop :=
  t.pc = a ∧ t.faultCode = code ∧ t.faultPc = a ∧ t.faultWord = w ∧ (∀ r, t.readV r = s.readV r) ∧
    t = { s with pc := t.pc, faultCode := t.faultCode, faultPc := t.faultPc, faultWord := t.faultWord } ∧ SameBytes s t

/-! ### The footprint of an instruction -/

/-- Which parts of the state an instruction may write: the columns "writes" of R41, PC meaning an override of the fetch's advance
(R125). -/
structure Footprint where
  v : List RegIx := []
  I : Bool := false
  pc : Bool := false
  sp : Bool := false
  /-- STACK[SP], the slot above the top entry. -/
  slot : Bool := false
  dt : Bool := false
  st : Bool := false
  /-- How many bytes it stores, from MEM[I] on. -/
  stored : Nat := 0
  disp : Bool := false
  await : Bool := false
  draws : Bool := false
  deriving DecidableEq, Repr

/-- The registers V0 to Vx. -/
def regsUpTo (x : RegIx) : List RegIx := (List.range (x.toNat + 1)).map (BitVec.ofNat 4)

/-- The "writes" column of the table of R41, with the draw of Cxkk (R54). -/
def footprint : Instr → Footprint
  | .cls => { disp := true }
  | .ret => { pc := true, sp := true }
  | .sys _ => {}
  | .jp _ => { pc := true }
  | .call _ => { slot := true, sp := true, pc := true }
  | .seImm _ _ => { pc := true }
  | .sneImm _ _ => { pc := true }
  | .seReg _ _ _ => { pc := true }
  | .ldImm x _ => { v := [x] }
  | .addImm x _ => { v := [x] }
  | .ldReg x _ => { v := [x] }
  | .orReg x _ => { v := [x] }
  | .andReg x _ => { v := [x] }
  | .xorReg x _ => { v := [x] }
  | .addReg x _ => { v := [x, vfIx] }
  | .subReg x _ => { v := [x, vfIx] }
  | .shr x _ => { v := [x, vfIx] }
  | .subnReg x _ => { v := [x, vfIx] }
  | .shl x _ => { v := [x, vfIx] }
  | .sneReg _ _ _ => { pc := true }
  | .ldI _ => { I := true }
  | .jpV0 _ => { pc := true }
  | .rnd x _ => { v := [x], draws := true }
  | .drw _ _ _ => { v := [vfIx], disp := true }
  | .skp _ => { pc := true }
  | .sknp _ => { pc := true }
  | .ldVxDt x => { v := [x] }
  | .ldVxK _ => { await := true }
  | .ldDtVx _ => { dt := true }
  | .ldStVx _ => { st := true }
  | .addIVx _ => { I := true }
  | .ldFVx _ => { I := true }
  | .ldBVx _ => { stored := 3 }
  | .ldMemVx x => { stored := x.toNat + 1 }
  | .ldVxMem x => { v := regsUpTo x }

/-- Every part of the state outside a footprint is as before; the bytes that may be stored to are those from `s.I.toNat` on, the
address the storing meanings write at. The keys, the fault record, the parameters and the host's further operations are in no
footprint. -/
def Footprint.Keeps (f : Footprint) (s t : State) : Prop :=
  (∀ r, r ∉ f.v → t.readV r = s.readV r) ∧ (f.I = false → t.I = s.I) ∧ (f.pc = false → t.pc = s.pc) ∧
    (f.sp = false → t.sp = s.sp) ∧ (∀ j : Fin 16, (f.slot = true → j.val ≠ s.sp.val) → t.stack[j] = s.stack[j]) ∧
    (f.dt = false → t.dt = s.dt) ∧ (f.st = false → t.st = s.st) ∧
    (∀ a, a < s.I.toNat ∨ s.I.toNat + f.stored ≤ a → t.readByte a = s.readByte a) ∧ (f.stored = 0 → t.mem = s.mem) ∧
    (f.disp = false → t.disp = s.disp) ∧ (f.await = false → t.awaiting = s.awaiting ∧ t.awaitReg = s.awaitReg) ∧
    (f.draws = false → t.draws = s.draws) ∧
    t.faultCode = s.faultCode ∧ t.faultPc = s.faultPc ∧ t.faultWord = s.faultWord ∧
    t.keys = s.keys ∧ t.cfg = s.cfg ∧ t.pending = s.pending

/-! ### The pixels a sprite plots, and the illegal words, in the spec's terms -/

/-- Dxyn plots pixel (qx, qy): some bit of the sprite is 1 and, in the edge mode of the machine, falls on the pixel (R231). -/
def Plots (s : State) (x y : RegIx) (n : Nibble) (qx : Fin 64) (qy : Fin 32) : Prop :=
  ∃ r < n.toNat, ∃ c < 8, (s.readByte (s.I.toNat + r)).getLsbD (7 - c) = true ∧
    match s.cfg.spriteEdge with
    | .wrap => qx.val = ((s.readV x).toNat % 64 + c) % 64 ∧ qy.val = ((s.readV y).toNat % 32 + r) % 32
    | .clip => qx.val = (s.readV x).toNat % 64 + c ∧ qy.val = (s.readV y).toNat % 32 + r

/-- The words of R100, R101 and R102. -/
abbrev IllegalWord (w : Word) : Prop :=
  (w.toNat / 4096 = 0x8 ∧ w.toNat % 16 ∈ [0x8, 0x9, 0xA, 0xB, 0xC, 0xD, 0xF]) ∨
    (w.toNat / 4096 = 0xE ∧ w.toNat % 256 ∉ [0x9E, 0xA1]) ∨
    (w.toNat / 4096 = 0xF ∧ w.toNat % 256 ∉ [0x07, 0x0A, 0x15, 0x18, 0x1E, 0x29, 0x33, 0x55, 0x65])

/-- The word that stands at PC, `MEM[PC] * 256 + MEM[PC + 1]` (R124). -/
def State.wordAtPc (s : State) : Word :=
  BitVec.ofNat 16 ((s.readByte s.pc.toNat).toNat * 256 + (s.readByte (s.pc.toNat + 1)).toNat)

end Sys2Proof.Machine
end

