-- ==== Sys2Proof/Certificates/Slice0/Obligations.lean ====
section
/-! DEFINITION. The statements for the provers. Each docstring names the rule of spec/ that it formalises, or says what it rests on
where it is derived. `exec i s` is the `execute` step of R122: on entry PC is the instruction's address plus 2 (R125), so
`s.pc - 2` is that address. -/

open Sys2Proof Sys2Proof.Machine

/-! ### Encoding and decode -/

/-- Derived (spec/30_encoding.md; that SYS and 5xyn and 9xyn with every n are instructions is the model's choice, log entry 8,
decisions D5 and D6): encoding a well-formed instruction and decoding the word gives the instruction back, with every operand at
every value. -/
def Obligations.DecodeOfEncodeIsTheInstruction : Prop :=
  ∀ i : Instr, i.wf = true → decode (encode i) = .ok i

/-- Derived (spec/30_encoding.md; that SYS and 5xyn and 9xyn with every n are instructions is the model's choice, log entry 8,
decisions D5 and D6): a word that decodes gives a well-formed instruction, and encoding it gives the word back, so no bit of a word
is lost. -/
def Obligations.EncodeOfDecodeIsTheWord : Prop :=
  ∀ (w : Word) (i : Instr), decode w = .ok i → i.wf = true ∧ encode i = w

/-- Derived (spec/30_encoding.md sections 4 and 5; the model's choice, log entry 8: by decision D5 5xyn and 9xyn decode with every n,
and by decision D6 and the form of that entry every class-0 word decodes, where the spec's decode function has
`Error(UnsupportedInstruction)` for SYS): the decoder refuses exactly the illegal words of classes 8, E and F, and each by name. -/
def Obligations.DecoderRefusesExactlyTheIllegalWords : Prop :=
  ∀ w : Word, (IllegalWord w → decode w = .error (.invalidOpcode w)) ∧ (¬ IllegalWord w → ∃ i, decode w = .ok i)

/-- Derived (spec/30_encoding.md R97 and section 4, spec/95_test_vectors.md; the model's choice, log entry 8: that 0x01E0 is decoded
to SYS, decision D6 and the form of that entry, and that 0x912F is decoded with its n kept, decision D5): words written out from the encodings, one or more a
family, decode to the instructions they stand for; of class 0, 0x00E0 is CLS, 0x00EE is RET and 0x01E0 is SYS. -/
def Obligations.WrittenWordsDecodeAsTheSpecSays : Prop :=
  decode 0x00E0#16 = .ok .cls ∧ decode 0x00EE#16 = .ok .ret ∧ decode 0x01E0#16 = .ok (.sys 0x1E0#12) ∧
  decode 0x1234#16 = .ok (.jp 0x234#12) ∧ decode 0x2300#16 = .ok (.call 0x300#12) ∧
  decode 0x3A2F#16 = .ok (.seImm 0xA#4 0x2F#8) ∧ decode 0x912F#16 = .ok (.sneReg 0x1#4 0x2#4 0xF#4) ∧
  decode 0x8F15#16 = .ok (.subReg 0xF#4 0x1#4) ∧ decode 0x812E#16 = .ok (.shl 0x1#4 0x2#4) ∧
  decode 0xA2F0#16 = .ok (.ldI 0x2F0#12) ∧ decode 0xF465#16 = .ok (.ldVxMem 0x4#4) ∧
  decode 0xD125#16 = .ok (.drw 0x1#4 0x2#4 0x5#4) ∧ decode 0xE0A1#16 = .ok (.sknp 0x0#4) ∧
  decode 0x8008#16 = .error (.invalidOpcode 0x8008#16)

/-! ### The step -/

/-- R124: where `execute_one` is next, no fault is latched and no key awaited, and PC is fetchable, the step fetches
`MEM[PC] * 256 + MEM[PC + 1]`, advances PC by 2 and runs the instruction the word decodes to. -/
def Obligations.StepRunsTheDecodedInstruction : Prop :=
  ∀ (s : State) (i : Instr), s.nextOp = .executeOne → s.Running → s.pc.toNat + 1 ≤ 4095 → decode s.wordAtPc = .ok i →
    step s = exec i { s.takeOp with pc := s.pc + 2#16 }

/-- Derived (spec/40_cycle.md R123; the record by decisions D2, D3 and D4): a fetch with PC + 1 above 4095 raises
`OutOfBoundsFetch`, code 5, with PC as the address and 0x0000 as the word; at 4094 the fetch raises nothing. -/
def Obligations.FetchRaisesExactlyBeyondTheLastWord : Prop :=
  ∀ s : State, s.nextOp = .executeOne → s.Running →
    (4095 < s.pc.toNat + 1 → ∃ t, step s = .next t ∧ Raised s.takeOp t 5#3 s.pc 0x0000#16) ∧
    (s.pc.toNat + 1 ≤ 4095 → ∀ t, step s = .next t → t.faultCode ≠ 5#3)

/-- Derived (spec/30_encoding.md section 5; the record by decisions D2, D3 and D4): stepping onto an illegal word raises
`InvalidOpcode`, code 2, and changes nothing but the fault record. -/
def Obligations.IllegalWordRaisesInvalidOpcode : Prop :=
  ∀ s : State, s.nextOp = .executeOne → s.Running → s.pc.toNat + 1 ≤ 4095 → IllegalWord s.wordAtPc →
    ∃ t, step s = .next t ∧ Raised s.takeOp t 2#3 s.pc s.wordAtPc

/-- Derived (spec/60_exceptions.md section 2, decision D1): with a fault latched, `execute_one` returns `Faulted` with its code and
changes nothing. -/
def Obligations.LatchedFaultIsReturnedAndNothingChanges : Prop :=
  ∀ s : State, s.nextOp = .executeOne → s.faultCode ≠ 0#3 →
    step s = .next s.takeOp ∧ stepResult s = some (.faulted s.faultCode)

/-- Derived (spec/40_cycle.md, spec/60_exceptions.md section 8, decision D21): while a key is awaited, `execute_one` returns
`Waiting` and changes nothing. -/
def Obligations.WaitingCoreChangesNothing : Prop :=
  ∀ s : State, s.nextOp = .executeOne → s.faultCode = 0#3 → s.awaiting = true →
    step s = .next s.takeOp ∧ stepResult s = some .waiting

/-- Derived (spec/40_cycle.md, decision D1): a running core whose instruction latches no fault returns `Executed` with the fetched
word, and with TRACE_ENABLED emits that word and the registers after the transition (decision D31). -/
def Obligations.ExecutedResultAndTraceNameTheWord : Prop :=
  ∀ s t : State, s.Running → executeOne s = .next t → t.faultCode = 0#3 →
    stepResult s = some (.executed s.wordAtPc) ∧
    (s.cfg.traceEnabled = true → traceRecord s = some ⟨s.wordAtPc, t.v, t.I, t.pc, t.sp, t.dt, t.st⟩) ∧
    (s.cfg.traceEnabled = false → traceRecord s = none)

/-- Derived (spec/00_scope.md R12, spec/60_exceptions.md section 2, decisions D2 and D4): an error is precise. A step that latches a
fault where none was latched is an `execute_one`, and the state after it is the state before it but for the fault record, which
holds the address and the fetched word (0x0000 where nothing was fetched). -/
def Obligations.ErrorsArePrecise : Prop :=
  ∀ s t : State, step s = .next t → s.faultCode = 0#3 → t.faultCode ≠ 0#3 →
    s.nextOp = .executeOne ∧
    t = { s.takeOp with
      faultCode := t.faultCode, faultPc := s.pc, faultWord := if s.pc.toNat ≤ 4094 then s.wordAtPc else 0x0000#16 }

/-- Derived (spec/60_exceptions.md section 2, decision D1): only reset clears or changes a latched fault, whatever the host does. -/
def Obligations.OnlyResetClearsALatchedFault : Prop :=
  ∀ s t : State, step s = .next t → s.faultCode ≠ 0#3 → s.nextOp ≠ .reset →
    t.faultCode = s.faultCode ∧ t.faultPc = s.faultPc ∧ t.faultWord = s.faultWord ∧ t.pc = s.pc

/-- Derived (spec/60_exceptions.md section 8, spec/70_reset_and_hazards.md section 1): only a key-press transition or reset ends the
wait of Fx0A. -/
def Obligations.OnlyAKeyPressOrResetEndsTheWait : Prop :=
  ∀ s t : State, step s = .next t → s.awaiting = true → t.awaiting = false →
    s.nextOp = .reset ∨ ∃ k, s.nextOp = .setKey k true ∧ s.keyPressed k = false

/-- Derived (spec/10_state.md section 6): the keys are read-only for the core: a step that changes them is a `set_key`, and it
changes only the key it names. -/
def Obligations.OnlySetKeyChangesTheKeys : Prop :=
  ∀ s t : State, step s = .next t → t.keys ≠ s.keys →
    ∃ k p, s.nextOp = .setKey k p ∧ ∀ j, j ≠ k → t.keyPressed j = s.keyPressed j

/-- Derived (spec/44_display_keys_timers.md R231, "must be consistent"; assumption 4): no step changes the machine's parameters. -/
def Obligations.ParametersNeverChange : Prop :=
  ∀ s t : State, step s = .next t → t.cfg = s.cfg

/-- Derived (the model's own: assumptions 1 and 5): where KEY_INDEX_HIGH is `LowNibble`, every step of every state has a next
state. -/
def Obligations.EveryStepHasANextState : Prop :=
  ∀ s : State, s.cfg.keyIndexHigh = .lowNibble → ∃ t, step s = .next t

/-- Derived (spec/10_state.md section 10, the "writes" column of its table; the error by decisions D2 to D4): an instruction that
gives a next state leaves everything outside its footprint as it was, or it raised an error and changed PC and the fault record
alone. Fx33 and Fx55 store to MEM[I..I+2] and MEM[I..I+x] alone and no other instruction stores; CALL writes no stack slot but
STACK[SP], and no other instruction writes one. -/
def Obligations.InstructionsStayInsideTheirFootprint : Prop :=
  ∀ (i : Instr) (s t : State), exec i s = .next t →
    (footprint i).Keeps s t ∨ (t.faultCode ≠ 0#3 ∧ Raised s t t.faultCode (s.pc - 2#16) (encode i))

/-! ### Invariants -/

/-- Derived (spec/10_state.md R27 and sections 3 and 7, spec/20_memory.md; canonical memory is assumption 6): every operation keeps
the state legal. -/
def Obligations.StepKeepsTheStateLegal : Prop :=
  ∀ s t : State, s.Legal → step s = .next t → t.Legal

/-- Derived (spec/10_state.md section 9): the constructed state is legal. -/
def Obligations.ResetStateIsLegal : Prop := State.reset.Legal

/-- Derived (the model's own, assumption 6): memory in canonical form is determined by what its 4096 cells read as. -/
def Obligations.CanonicalMemoriesWithEqualCellsAreEqual : Prop :=
  ∀ s t : State, t.cfg = s.cfg → Memory.wf s.cfg s.mem = true → Memory.wf t.cfg t.mem = true →
    (∀ a < 4096, t.readByte a = s.readByte a) → t.mem = s.mem

/-! ### Construction, reset, load, tick and keys -/

/-- Derived (spec/70_reset_and_hazards.md section 1, the table of spec/10_state.md section 9; the display, the keys, the wait and the
fault record by decisions D27 and D28): the constructed state. -/
def Obligations.ConstructedStateIsTheTable : Prop :=
  (∀ r, State.reset.readV r = 0#8) ∧ State.reset.I = 0x0000#16 ∧ State.reset.pc = 0x0200#16 ∧ State.reset.sp.val = 0 ∧
  (∀ j : Fin 16, State.reset.stack[j] = 0x0000#16) ∧ State.reset.dt = 0#8 ∧ State.reset.st = 0#8 ∧
  (∀ k, State.reset.keyPressed k = false) ∧ (∀ px py, pixel State.reset.disp px py = false) ∧
  State.reset.awaiting = false ∧ State.reset.awaitReg = 0#4 ∧
  State.reset.faultCode = 0#3 ∧ State.reset.faultPc = 0x0000#16 ∧ State.reset.faultWord = 0x0000#16 ∧
  (∀ k : Fin 80, State.reset.readByte (State.reset.cfg.fontBase.toNat + k.val) = State.reset.cfg.fontData[k]) ∧
  (∀ a, (a < State.reset.cfg.fontBase.toNat ∨ State.reset.cfg.fontBase.toNat + 80 ≤ a) → State.reset.readByte a = 0#8)

/-- Derived (spec/70_reset_and_hazards.md R301; the display, the wait, the fault record and the keys by decision D27): reset
reproduces the constructed state of the machine from any state, a faulted or waiting one too, and keeps the keys. -/
def Obligations.ResetReproducesTheConstructedState : Prop :=
  ∀ s : State, s.nextOp = .reset → ∃ t, step s = .next t ∧
    (∀ r, t.readV r = 0#8) ∧ t.I = 0x0000#16 ∧ t.pc = 0x0200#16 ∧ t.sp.val = 0 ∧ (∀ j : Fin 16, t.stack[j] = 0x0000#16) ∧
    t.dt = 0#8 ∧ t.st = 0#8 ∧ t.keys = s.keys ∧ (∀ px py, pixel t.disp px py = false) ∧
    t.awaiting = false ∧ t.awaitReg = 0#4 ∧ t.faultCode = 0#3 ∧ t.faultPc = 0x0000#16 ∧ t.faultWord = 0x0000#16 ∧
    (∀ k : Fin 80, t.readByte (s.cfg.fontBase.toNat + k.val) = s.cfg.fontData[k]) ∧
    (∀ a, (a < s.cfg.fontBase.toNat ∨ s.cfg.fontBase.toNat + 80 ≤ a) → t.readByte a = 0#8) ∧ t.cfg = s.cfg

/-- Derived (spec/70_reset_and_hazards.md section 2, decision D29): `load_program` copies an image of at most 3584 bytes, given as
bytes or as words, to 0x200 and changes nothing else; a longer one changes nothing and is reported too large. -/
def Obligations.LoadProgramCopiesTheImage : Prop :=
  ∀ (s : State) (image : Image), s.nextOp = .loadProgram image → Memory.wf s.cfg s.mem = true →
    (image.toBytes.length ≤ 3584 → loadResult image = .loaded ∧
      ∃ t, step s = .next t ∧ StoredBytes s.takeOp t 0x200 image.toBytes) ∧
    (3584 < image.toBytes.length → loadResult image = .imageTooLarge ∧ step s = .next s.takeOp)

/-- Derived (spec/20_memory.md section 2, spec/70_reset_and_hazards.md section 2, decision D29): a program of at most 1792 words reads
back as those words, the high byte at the lower address, and nothing else changes; one of more words changes nothing and is
reported too large. -/
def Obligations.LoadedWordsAreStoredHighByteFirst : Prop :=
  ∀ (s : State) (ws : List Word), s.nextOp = .loadProgram (.words ws) → Memory.wf s.cfg s.mem = true →
    (ws.length ≤ 1792 → loadResult (.words ws) = .loaded ∧ ∃ t, step s = .next t ∧
      (∀ (j : Nat) (h : j < ws.length), (t.readByte (0x200 + 2 * j)).toNat = ws[j].toNat / 256 ∧
        (t.readByte (0x200 + 2 * j + 1)).toNat = ws[j].toNat % 256) ∧
      (∀ a, a < 0x200 ∨ 0x200 + 2 * ws.length ≤ a → t.readByte a = s.readByte a) ∧
      (∀ r, t.readV r = s.readV r) ∧ t = { s.takeOp with mem := t.mem }) ∧
    (1792 < ws.length → loadResult (.words ws) = .imageTooLarge ∧ step s = .next s.takeOp)

/-- Derived (spec/60_exceptions.md section 6; in every state, a faulted or waiting one too, by decision D24): a tick takes 1 from each
timer and stops at 0, and changes nothing else. -/
def Obligations.TickCountsBothTimersDownToZero : Prop :=
  ∀ s : State, s.nextOp = .tickTimers → ∃ t, step s = .next t ∧
    t.dt.toNat = s.dt.toNat - 1 ∧ t.st.toNat = s.st.toNat - 1 ∧
    t = { s.takeOp with dt := t.dt, st := t.st } ∧ SameBytes s t

/-- Derived (spec/44_display_keys_timers.md section on key events, decisions D21 and D26): `set_key` writes its key; a press
transition during a wait also writes the key's number to V[AWAIT_REG] and ends the wait; nothing else changes. -/
def Obligations.SetKeyWritesTheKeyAndEndsAWaitOnAPress : Prop :=
  ∀ (s : State) (k : Key) (p : Bool), s.nextOp = .setKey k p → ∃ t, step s = .next t ∧
    t.keyPressed k = p ∧ (∀ j, j ≠ k → t.keyPressed j = s.keyPressed j) ∧
    (s.awaiting = true → p = true → s.keyPressed k = false →
      t.awaiting = false ∧ (t.readV s.awaitReg).toNat = k.toNat ∧ (∀ r, r ≠ s.awaitReg → t.readV r = s.readV r) ∧
      t = { s.takeOp with v := t.v, keys := t.keys, awaiting := t.awaiting }) ∧
    (¬(s.awaiting = true ∧ p = true ∧ s.keyPressed k = false) → t = { s.takeOp with keys := t.keys })

/-- Derived (spec/10_state.md section 11, decision D25): the sound output is on exactly while ST is not 0. -/
def Obligations.SoundIsActiveExactlyWhileTheSoundTimerRuns : Prop :=
  ∀ s : State, soundActive s = true ↔ 0 < s.st.toNat

/-! ### Control flow -/

/-- R142: JP writes `nnn` to PC, in every state. -/
def Obligations.JumpWritesTheAddress : Prop :=
  ∀ (s : State) (nnn : Addr12), ∃ t, exec (.jp nnn) s = .next t ∧ WrotePc s t (BitVec.ofNat 16 nnn.toNat)

/-- R148: JP V0 writes the exact sum of `nnn` and V0 to PC, whatever the field x of the word is. -/
def Obligations.IndexedJumpAddsV0 : Prop :=
  ∀ (s : State) (nnn : Addr12), ∃ t, exec (.jpV0 nnn) s = .next t ∧
    t.pc.toNat = nnn.toNat + (s.readV 0#4).toNat ∧ WrotePc s t t.pc

/-- Derived (spec/41_control_flow.md 2nnn; the record of the error by decisions D2 to D4): CALL pushes PC, the address after the call,
and jumps, where fewer than 16 addresses are on the stack; the other slots are as before. With 16 it raises `StackOverflow`. -/
def Obligations.CallPushesTheReturnAddress : Prop :=
  ∀ (s : State) (nnn : Addr12),
    (∀ h : s.sp.val < 16, ∃ t, exec (.call nnn) s = .next t ∧ t.pc = BitVec.ofNat 16 nnn.toNat ∧ t.sp.val = s.sp.val + 1 ∧
      t.stack[s.sp.val] = s.pc ∧ (∀ j : Fin 16, j.val ≠ s.sp.val → t.stack[j] = s.stack[j]) ∧ (∀ r, t.readV r = s.readV r) ∧
      t = { s with pc := t.pc, sp := t.sp, stack := t.stack } ∧ SameBytes s t) ∧
    (s.sp.val = 16 → ∃ t, exec (.call nnn) s = .next t ∧ Raised s t 3#3 (s.pc - 2#16) (0x2000#16 + BitVec.ofNat 16 nnn.toNat))

/-- Derived (spec/41_control_flow.md 00EE; the record of the error by decisions D2 to D4, the kept slot by D30): RET pops the return address into PC where the stack is not empty, and keeps the slots; on an empty stack it raises
`StackUnderflow`. -/
def Obligations.ReturnPopsTheReturnAddress : Prop :=
  ∀ s : State,
    (∀ h : 0 < s.sp.val, ∃ t, exec .ret s = .next t ∧
      t.pc = s.stack[s.sp.val - 1]'(by have := s.sp.isLt; omega) ∧ t.sp.val = s.sp.val - 1 ∧ (∀ r, t.readV r = s.readV r) ∧
      t = { s with pc := t.pc, sp := t.sp } ∧ SameBytes s t) ∧
    (s.sp.val = 0 → ∃ t, exec .ret s = .next t ∧ Raised s t 4#3 (s.pc - 2#16) 0x00EE#16)

/-- Derived (spec/41_control_flow.md, the source's round-trip property quoted with CALL): a RET after a CALL restores PC to the
address after the call and the depth to what it was. -/
def Obligations.ReturnUndoesCall : Prop :=
  ∀ (s t : State) (nnn : Addr12), s.sp.val < 16 → exec (.call nnn) s = .next t →
    ∃ u, exec .ret t = .next u ∧ u.pc = s.pc ∧ u.sp = s.sp ∧ (∀ j : Fin 16, j.val < s.sp.val → u.stack[j] = s.stack[j])

/-- Derived (spec/41_control_flow.md SYS; the record by decisions D2 to D4): SYS latches `UnsupportedInstruction`, code 1, in every
state, and changes nothing else. -/
def Obligations.SysLatchesUnsupportedInstruction : Prop :=
  ∀ (s : State) (nnn : Addr12), ∃ t, exec (.sys nnn) s = .next t ∧ Raised s t 1#3 (s.pc - 2#16) (BitVec.ofNat 16 nnn.toNat)

/-- R144 and R145: SE and SNE with an immediate skip, that is advance PC by 2 more, exactly where the register equals, or differs
from, the immediate. -/
def Obligations.ImmediateSkipsCompareTheRegister : Prop :=
  ∀ (s : State) (x : RegIx) (kk : Byte),
    (∃ t, exec (.seImm x kk) s = .next t ∧ WrotePc s t (if (s.readV x).toNat = kk.toNat then s.pc + 2#16 else s.pc)) ∧
    (∃ t, exec (.sneImm x kk) s = .next t ∧ WrotePc s t (if (s.readV x).toNat = kk.toNat then s.pc else s.pc + 2#16))

/-- Derived (spec/41_control_flow.md 5xy0 and 9xy0; that any `n` runs is decision D5): SE and SNE with a register skip exactly where
the registers are equal, or differ, whatever the field n is. -/
def Obligations.RegisterSkipsCompareTheRegisters : Prop :=
  ∀ (s : State) (x y : RegIx) (n : Nibble),
    (∃ t, exec (.seReg x y n) s = .next t ∧
      WrotePc s t (if (s.readV x).toNat = (s.readV y).toNat then s.pc + 2#16 else s.pc)) ∧
    (∃ t, exec (.sneReg x y n) s = .next t ∧
      WrotePc s t (if (s.readV x).toNat = (s.readV y).toNat then s.pc else s.pc + 2#16))

/-! ### Arithmetic and logic -/

/-- R170 and R172: LD writes the immediate, or the second register, to Vx and nothing else. -/
def Obligations.LoadsWriteTheirValue : Prop :=
  ∀ (s : State) (x y : RegIx) (kk : Byte),
    (∃ t, exec (.ldImm x kk) s = .next t ∧ WroteV s t x kk) ∧
    (∃ t, exec (.ldReg x y) s = .next t ∧ WroteV s t x (s.readV y))

/-- Derived (spec/42_alu.md 7xkk, decision D13): ADD with an immediate writes the sum modulo 256 and no flag. -/
def Obligations.AddImmediateWrapsWithoutAFlag : Prop :=
  ∀ (s : State) (x : RegIx) (kk : Byte), ∃ t, exec (.addImm x kk) s = .next t ∧
    WroteV s t x (BitVec.ofNat 8 (((s.readV x).toNat + kk.toNat) % 256))

/-- Derived (spec/42_alu.md 8xy1 to 8xy3, decision D13): OR, AND and XOR write their result, bit by bit, and no flag. -/
def Obligations.BitwiseInstructionsWriteNoFlag : Prop :=
  ∀ (s : State) (x y : RegIx),
    (∃ t, exec (.orReg x y) s = .next t ∧ WroteV s t x (t.readV x) ∧
      ∀ b < 8, (t.readV x).getLsbD b = ((s.readV x).getLsbD b || (s.readV y).getLsbD b)) ∧
    (∃ t, exec (.andReg x y) s = .next t ∧ WroteV s t x (t.readV x) ∧
      ∀ b < 8, (t.readV x).getLsbD b = ((s.readV x).getLsbD b && (s.readV y).getLsbD b)) ∧
    (∃ t, exec (.xorReg x y) s = .next t ∧ WroteV s t x (t.readV x) ∧
      ∀ b < 8, (t.readV x).getLsbD b = ((s.readV x).getLsbD b != (s.readV y).getLsbD b))

/-- Derived (spec/42_alu.md 8xy4; that VF keeps the flag for x = F is decision D7): ADD writes the sum modulo 256 and then VF, 1 where
the exact sum is above 255. -/
def Obligations.AddWritesTheCarry : Prop :=
  ∀ (s : State) (x y : RegIx), ∃ t, exec (.addReg x y) s = .next t ∧
    WroteVAndFlag s t x (BitVec.ofNat 8 (((s.readV x).toNat + (s.readV y).toNat) % 256))
      (if (s.readV x).toNat + (s.readV y).toNat > 255 then 1#8 else 0#8)

/-- Derived (spec/42_alu.md 8xy5 and 8xy7; decision D7 for x = F): SUB and SUBN write the difference modulo 256 and then VF, 1 where
there is no borrow. -/
def Obligations.SubtractionsWriteNoBorrow : Prop :=
  ∀ (s : State) (x y : RegIx),
    (∃ t, exec (.subReg x y) s = .next t ∧
      WroteVAndFlag s t x (BitVec.ofNat 8 ((256 + (s.readV x).toNat - (s.readV y).toNat) % 256))
        (if (s.readV x).toNat ≥ (s.readV y).toNat then 1#8 else 0#8)) ∧
    (∃ t, exec (.subnReg x y) s = .next t ∧
      WroteVAndFlag s t x (BitVec.ofNat 8 ((256 + (s.readV y).toNat - (s.readV x).toNat) % 256))
        (if (s.readV y).toNat ≥ (s.readV x).toNat then 1#8 else 0#8))

/-- Derived (spec/42_alu.md 8xy6 and 8xyE; decision D7 for x = F): SHR halves and SHL doubles Vx, whatever y is, and then VF holds the
bit shifted out. -/
def Obligations.ShiftsWriteTheBitShiftedOut : Prop :=
  ∀ (s : State) (x y : RegIx),
    (∃ t, exec (.shr x y) s = .next t ∧
      WroteVAndFlag s t x (BitVec.ofNat 8 ((s.readV x).toNat / 2)) (BitVec.ofNat 8 ((s.readV x).toNat % 2))) ∧
    (∃ t, exec (.shl x y) s = .next t ∧
      WroteVAndFlag s t x (BitVec.ofNat 8 (2 * (s.readV x).toNat % 256)) (BitVec.ofNat 8 ((s.readV x).toNat / 128)))

/-- Derived (spec/42_alu.md Cxkk, decision D23; the free value of assumption 3): RND takes one draw and writes it masked, so the bits
outside `kk` are 0. -/
def Obligations.RandomIsOneDrawMasked : Prop :=
  ∀ (s : State) (x : RegIx) (kk : Byte), ∃ t, exec (.rnd x kk) s = .next t ∧
    t.readV x = Config.randomByte s.draws &&& kk ∧ (∀ b < 8, kk.getLsbD b = false → (t.readV x).getLsbD b = false) ∧
    t.draws = s.draws + 1 ∧ (∀ r, r ≠ x → t.readV r = s.readV r) ∧ t = { s with v := t.v, draws := t.draws } ∧ SameBytes s t

/-! ### I and memory -/

/-- R200: LD I writes the 12-bit address and accesses no memory. -/
def Obligations.LoadIWritesTheAddress : Prop :=
  ∀ (s : State) (nnn : Addr12), ∃ t, exec (.ldI nnn) s = .next t ∧ WroteI s t (BitVec.ofNat 16 nnn.toNat)

/-- Derived (spec/43_index_memory.md Fx1E, decision D13): ADD I wraps at 16 bits, writes no flag and never faults. -/
def Obligations.AddToIWrapsWithoutAFlag : Prop :=
  ∀ (s : State) (x : RegIx), ∃ t, exec (.addIVx x) s = .next t ∧
    WroteI s t (BitVec.ofNat 16 ((s.I.toNat + (s.readV x).toNat) % 65536))

/-- Derived (spec/43_index_memory.md Fx29; for every FONT_BASE, a parameter of R7): LD F writes the address of the glyph of the low
nibble of Vx. -/
def Obligations.LoadFontWritesTheGlyphAddress : Prop :=
  ∀ (s : State) (x : RegIx), ∃ t, exec (.ldFVx x) s = .next t ∧
    t.I.toNat = s.cfg.fontBase.toNat + 5 * ((s.readV x).toNat % 16) ∧ WroteI s t t.I

/-- Derived (spec/43_index_memory.md Fx33; the record of the error by decisions D2 to D4): BCD stores the hundreds, tens and ones of Vx at I, I + 1 and I + 2 where all three are cells of memory, and no other byte
changes; else it raises `OutOfBoundsMemoryAccess` before any byte is written. -/
def Obligations.BcdStoresThreeDigits : Prop :=
  ∀ (s : State) (x : RegIx), Memory.wf s.cfg s.mem = true →
    (s.I.toNat + 2 < 4096 → ∃ t, exec (.ldBVx x) s = .next t ∧
      StoredBytes s t s.I.toNat [BitVec.ofNat 8 ((s.readV x).toNat / 100), BitVec.ofNat 8 ((s.readV x).toNat / 10 % 10),
        BitVec.ofNat 8 ((s.readV x).toNat % 10)]) ∧
    (4096 ≤ s.I.toNat + 2 → ∃ t, exec (.ldBVx x) s = .next t ∧
      Raised s t 6#3 (s.pc - 2#16) (BitVec.ofNat 16 (0xF033 + 256 * x.toNat)))

/-- Derived (spec/43_index_memory.md Fx55; that I is unchanged is decision D12): LD [I], Vx stores V0 to Vx from I on where all the
addresses are cells of memory, and no other byte changes; else it raises `OutOfBoundsMemoryAccess` before any byte is written. -/
def Obligations.StoreRegistersCopiesV0ToVx : Prop :=
  ∀ (s : State) (x : RegIx), Memory.wf s.cfg s.mem = true →
    (s.I.toNat + x.toNat < 4096 → ∃ t, exec (.ldMemVx x) s = .next t ∧
      (∀ k ≤ x.toNat, t.readByte (s.I.toNat + k) = s.readV (BitVec.ofNat 4 k)) ∧
      (∀ a, a < s.I.toNat ∨ s.I.toNat + x.toNat < a → t.readByte a = s.readByte a) ∧
      (∀ r, t.readV r = s.readV r) ∧ t = { s with mem := t.mem }) ∧
    (4096 ≤ s.I.toNat + x.toNat → ∃ t, exec (.ldMemVx x) s = .next t ∧
      Raised s t 6#3 (s.pc - 2#16) (BitVec.ofNat 16 (0xF055 + 256 * x.toNat)))

/-- Derived (spec/43_index_memory.md Fx65; that I is unchanged is decision D12): LD Vx, [I] loads V0 to Vx from I on where all the
addresses are cells of memory, and leaves the other registers; else it raises `OutOfBoundsMemoryAccess` before any register is
written. -/
def Obligations.LoadRegistersCopiesToV0ToVx : Prop :=
  ∀ (s : State) (x : RegIx),
    (s.I.toNat + x.toNat < 4096 → ∃ t, exec (.ldVxMem x) s = .next t ∧
      (∀ r, r.toNat ≤ x.toNat → t.readV r = s.readByte (s.I.toNat + r.toNat)) ∧
      (∀ r, x.toNat < r.toNat → t.readV r = s.readV r) ∧ t = { s with v := t.v } ∧ SameBytes s t) ∧
    (4096 ≤ s.I.toNat + x.toNat → ∃ t, exec (.ldVxMem x) s = .next t ∧
      Raised s t 6#3 (s.pc - 2#16) (BitVec.ofNat 16 (0xF065 + 256 * x.toNat)))

/-- Derived (the source's round trip, quoted at Fx65 in spec/43_index_memory.md): registers stored with Fx55 come back with Fx65 of
the same I and x, whatever the registers hold in between. -/
def Obligations.LoadRegistersUndoesStoreRegisters : Prop :=
  ∀ (s t : State) (x : RegIx) (v : Vector Byte 16), Memory.wf s.cfg s.mem = true → s.I.toNat + x.toNat < 4096 →
    exec (.ldMemVx x) s = .next t →
    ∃ u, exec (.ldVxMem x) { t with v := v } = .next u ∧ ∀ r, r.toNat ≤ x.toNat → u.readV r = s.readV r

/-- Derived (spec/20_memory.md section 7, decision D37): the next fetch sees the bytes an instruction has just stored: a word that
Fx55 writes at the address in PC is the word the next `execute_one` fetches. -/
def Obligations.TheNextFetchSeesAStore : Prop :=
  ∀ (s t : State) (x : RegIx), Memory.wf s.cfg s.mem = true → s.I = s.pc → 1 ≤ x.toNat → s.pc.toNat + x.toNat < 4096 →
    exec (.ldMemVx x) s = .next t →
    t.fetch = some (BitVec.ofNat 16 ((s.readV 0#4).toNat * 256 + (s.readV 1#4).toNat))

/-! ### Display, keys and timers -/

/-- R230: CLS turns every pixel off and changes nothing else. -/
def Obligations.ClearTurnsEveryPixelOff : Prop :=
  ∀ s : State, ∃ t, exec .cls s = .next t ∧ (∀ px py, pixel t.disp px py = false) ∧ (∀ r, t.readV r = s.readV r) ∧
    t = { s with disp := t.disp } ∧ SameBytes s t

/-- Derived (spec/44_display_keys_timers.md R231 and R232; decisions D11, D14, D15 and D16, for both edge modes): Dxyn inverts exactly
the pixels its sprite plots and sets VF to 1 where one of them was on, to 0 else; with n = 0 that is no pixel and 0. -/
def Obligations.DrawInvertsThePlottedPixelsAndReportsACollision : Prop :=
  ∀ (s : State) (x y : RegIx) (n : Nibble), n.toNat = 0 ∨ s.I.toNat + n.toNat ≤ 4096 →
    ∃ t, exec (.drw x y n) s = .next t ∧
      (∀ qx qy, pixel t.disp qx qy = true ↔ (Plots s x y n qx qy ↔ pixel s.disp qx qy = false)) ∧
      ((∃ qx qy, Plots s x y n qx qy ∧ pixel s.disp qx qy = true) → t.readV vfIx = 1#8) ∧
      (¬(∃ qx qy, Plots s x y n qx qy ∧ pixel s.disp qx qy = true) → t.readV vfIx = 0#8) ∧
      (∀ r, r ≠ vfIx → t.readV r = s.readV r) ∧ t = { s with v := t.v, disp := t.disp } ∧ SameBytes s t

/-- Derived (spec/44_display_keys_timers.md R231, decision D11): Dxyn with a row beyond memory raises `OutOfBoundsMemoryAccess` before
any pixel changes and before VF is written. -/
def Obligations.DrawBeyondMemoryRaises : Prop :=
  ∀ (s : State) (x y : RegIx) (n : Nibble), 0 < n.toNat → 4096 < s.I.toNat + n.toNat →
    ∃ t, exec (.drw x y n) s = .next t ∧
      Raised s t 6#3 (s.pc - 2#16) (BitVec.ofNat 16 (0xD000 + 256 * x.toNat + 16 * y.toNat + n.toNat))

/-- Derived (spec/44_display_keys_timers.md R231 and its example; decision D7 for the coordinates): drawing a sprite twice at the
same place restores the display, and the second drawing reports a collision exactly where it plots a pixel that was off at first. -/
def Obligations.DrawingTwiceRestoresTheDisplay : Prop :=
  ∀ (s t : State) (x y : RegIx) (n : Nibble), x ≠ vfIx → y ≠ vfIx → n.toNat = 0 ∨ s.I.toNat + n.toNat ≤ 4096 →
    exec (.drw x y n) s = .next t →
    ∃ u, exec (.drw x y n) t = .next u ∧ u.disp = s.disp ∧
      (u.readV vfIx = 1#8 ↔ ∃ qx qy, Plots s x y n qx qy ∧ pixel s.disp qx qy = false)

/-- Derived (spec/44_display_keys_timers.md Ex9E, ExA1 and key_index; decisions D20 and D22, for both values of KEY_INDEX_HIGH): SKP
and SKNP skip exactly where the key that Vx names is, or is not, pressed; where Vx is 16 or more, `LowNibble` takes its low nibble
and `Refuse` refuses. -/
def Obligations.KeySkipsTestTheNamedKey : Prop :=
  ∀ (s : State) (x : RegIx) (k : Key), k.toNat = (s.readV x).toNat % 16 →
    ((s.readV x).toNat < 16 ∨ s.cfg.keyIndexHigh = .lowNibble →
      (∃ t, exec (.skp x) s = .next t ∧ WrotePc s t (if s.keyPressed k = true then s.pc + 2#16 else s.pc)) ∧
      (∃ t, exec (.sknp x) s = .next t ∧ WrotePc s t (if s.keyPressed k = true then s.pc else s.pc + 2#16))) ∧
    (16 ≤ (s.readV x).toNat → s.cfg.keyIndexHigh = .refuse →
      exec (.skp x) s = .refused .keyIndexAbove15 ∧ exec (.sknp x) s = .refused .keyIndexAbove15)

/-- R236 and R239: LD Vx, DT reads the delay timer and LD DT, Vx sets it, and nothing else changes. -/
def Obligations.DelayTimerIsReadAndSet : Prop :=
  ∀ (s : State) (x : RegIx),
    (∃ t, exec (.ldVxDt x) s = .next t ∧ WroteV s t x s.dt) ∧
    (∃ t, exec (.ldDtVx x) s = .next t ∧ t.dt = s.readV x ∧ (∀ r, t.readV r = s.readV r) ∧ t = { s with dt := t.dt } ∧
      SameBytes s t)

/-- Derived (spec/44_display_keys_timers.md Fx18; the sound output by decision D25): LD ST, Vx sets the sound timer and so the sound
output, and nothing else changes. -/
def Obligations.SoundTimerIsSet : Prop :=
  ∀ (s : State) (x : RegIx), ∃ t, exec (.ldStVx x) s = .next t ∧ t.st = s.readV x ∧
    (soundActive t = true ↔ 1 ≤ (s.readV x).toNat) ∧ (∀ r, t.readV r = s.readV r) ∧ t = { s with st := t.st } ∧ SameBytes s t

/-- Derived (spec/44_display_keys_timers.md Fx0A, decision D21): LD Vx, K starts the wait for a key with x as the destination; PC
stays after the instruction and Vx is not yet written. -/
def Obligations.WaitForKeySuspendsTheCore : Prop :=
  ∀ (s : State) (x : RegIx), ∃ t, exec (.ldVxK x) s = .next t ∧ t.awaiting = true ∧ t.awaitReg = x ∧ t.pc = s.pc ∧
    (∀ r, t.readV r = s.readV r) ∧ t = { s with awaiting := t.awaiting, awaitReg := t.awaitReg } ∧ SameBytes s t
end

