-- ==== Sys2Proof/Laws/Decode.lean ====
section
/-! SUPPORT. The fields of a packed word, and a word put together again from its fields: the facts a round trip of the encoding
rests on (spec/30_encoding.md R92). -/

namespace Sys2Proof

/-! ### Fields of a packed word -/

section fields
variable (op x y n : Nibble) (kk : Byte) (nnn : Addr12)

@[simp] theorem opField_packXyn : opField (packXyn op x y n) = op := by
  apply BitVec.eq_of_getLsbD_eq; intro i hi
  simp only [opField, packXyn, BitVec.getLsbD_extractLsb', BitVec.getLsbD_append]; grind
@[simp] theorem xField_packXyn : xField (packXyn op x y n) = x := by
  apply BitVec.eq_of_getLsbD_eq; intro i hi
  simp only [xField, packXyn, BitVec.getLsbD_extractLsb', BitVec.getLsbD_append]; grind
@[simp] theorem yField_packXyn : yField (packXyn op x y n) = y := by
  apply BitVec.eq_of_getLsbD_eq; intro i hi
  simp only [yField, packXyn, BitVec.getLsbD_extractLsb', BitVec.getLsbD_append]; grind
@[simp] theorem nField_packXyn : nField (packXyn op x y n) = n := by
  apply BitVec.eq_of_getLsbD_eq; intro i hi
  simp only [nField, packXyn, BitVec.getLsbD_extractLsb', BitVec.getLsbD_append]; grind
@[simp] theorem opField_packXkk : opField (packXkk op x kk) = op := by
  apply BitVec.eq_of_getLsbD_eq; intro i hi
  simp only [opField, packXkk, BitVec.getLsbD_extractLsb', BitVec.getLsbD_append]; grind
@[simp] theorem xField_packXkk : xField (packXkk op x kk) = x := by
  apply BitVec.eq_of_getLsbD_eq; intro i hi
  simp only [xField, packXkk, BitVec.getLsbD_extractLsb', BitVec.getLsbD_append]; grind
@[simp] theorem kkField_packXkk : kkField (packXkk op x kk) = kk := by
  apply BitVec.eq_of_getLsbD_eq; intro i hi
  simp only [kkField, packXkk, BitVec.getLsbD_extractLsb', BitVec.getLsbD_append]; grind
@[simp] theorem opField_packNnn : opField (packNnn op nnn) = op := by
  apply BitVec.eq_of_getLsbD_eq; intro i hi
  simp only [opField, packNnn, BitVec.getLsbD_extractLsb', BitVec.getLsbD_append]; grind
@[simp] theorem nnnField_packNnn : nnnField (packNnn op nnn) = nnn := by
  apply BitVec.eq_of_getLsbD_eq; intro i hi
  simp only [nnnField, packNnn, BitVec.getLsbD_extractLsb', BitVec.getLsbD_append]; grind

end fields

/-! ### A packed word as a number -/

theorem toNat_append_shift {m k : Nat} (a : BitVec m) (b : BitVec k) : (a ++ b).toNat = a.toNat * 2 ^ k + b.toNat := by
  rw [BitVec.toNat_append, ← Nat.shiftLeft_add_eq_or_of_lt b.isLt, Nat.shiftLeft_eq]

theorem toNat_packNnn (op : Nibble) (nnn : Addr12) : (packNnn op nnn).toNat = 4096 * op.toNat + nnn.toNat := by
  rw [packNnn, toNat_append_shift]; omega

theorem toNat_packXkk (op x : Nibble) (kk : Byte) :
    (packXkk op x kk).toNat = 4096 * op.toNat + 256 * x.toNat + kk.toNat := by
  rw [packXkk, toNat_append_shift, toNat_append_shift]; omega

theorem toNat_packXyn (op x y n : Nibble) :
    (packXyn op x y n).toNat = 4096 * op.toNat + 256 * x.toNat + 16 * y.toNat + n.toNat := by
  rw [packXyn, toNat_append_shift, toNat_append_shift, toNat_append_shift]; omega

/-! ### The fields of a word as numbers -/

theorem toNat_opField (w : Word) : (opField w).toNat = w.toNat / 4096 := by
  have := w.isLt
  rw [opField, BitVec.extractLsb'_toNat, Nat.shiftRight_eq_div_pow]; omega

theorem toNat_nField (w : Word) : (nField w).toNat = w.toNat % 16 := by
  rw [nField, BitVec.extractLsb'_toNat, Nat.shiftRight_zero]

theorem toNat_kkField (w : Word) : (kkField w).toNat = w.toNat % 256 := by
  rw [kkField, BitVec.extractLsb'_toNat, Nat.shiftRight_zero]

theorem toNat_highByte (w : Word) : (highByte w).toNat = w.toNat / 256 := by
  have := w.isLt
  rw [highByte, BitVec.extractLsb'_toNat, Nat.shiftRight_eq_div_pow]; omega

theorem toNat_lowByte (w : Word) : (lowByte w).toNat = w.toNat % 256 := by
  rw [lowByte, BitVec.extractLsb'_toNat, Nat.shiftRight_zero]

/-- The word of two bytes as a number (R124). -/
theorem toNat_wordOfBytes (hi lo : Byte) : (wordOfBytes hi lo).toNat = hi.toNat * 256 + lo.toNat := by
  rw [wordOfBytes, toNat_append_shift]; omega

/-! ### A word from its fields -/

theorem packXyn_fields (w : Word) : packXyn (opField w) (xField w) (yField w) (nField w) = w := by
  apply BitVec.eq_of_getLsbD_eq; intro i hi
  simp only [opField, xField, yField, nField, packXyn, BitVec.getLsbD_extractLsb', BitVec.getLsbD_append]; grind

theorem packXkk_fields (w : Word) : packXkk (opField w) (xField w) (kkField w) = w := by
  apply BitVec.eq_of_getLsbD_eq; intro i hi
  simp only [opField, xField, kkField, packXkk, BitVec.getLsbD_extractLsb', BitVec.getLsbD_append]; grind

theorem packNnn_fields (w : Word) : packNnn (opField w) (nnnField w) = w := by
  apply BitVec.eq_of_getLsbD_eq; intro i hi
  simp only [opField, nnnField, packNnn, BitVec.getLsbD_extractLsb', BitVec.getLsbD_append]; grind

/-! ### Bytes of a word -/

@[simp] theorem wordOfBytes_high_low (w : Word) : wordOfBytes (highByte w) (lowByte w) = w := by
  apply BitVec.eq_of_getLsbD_eq; intro i hi
  simp only [wordOfBytes, highByte, lowByte, BitVec.getLsbD_extractLsb', BitVec.getLsbD_append]; grind

@[simp] theorem highByte_wordOfBytes (hi lo : Byte) : highByte (wordOfBytes hi lo) = hi := by
  apply BitVec.eq_of_getLsbD_eq; intro i _
  simp only [wordOfBytes, highByte, BitVec.getLsbD_extractLsb', BitVec.getLsbD_append]; grind

@[simp] theorem lowByte_wordOfBytes (hi lo : Byte) : lowByte (wordOfBytes hi lo) = lo := by
  apply BitVec.eq_of_getLsbD_eq; intro i _
  simp only [wordOfBytes, lowByte, BitVec.getLsbD_extractLsb', BitVec.getLsbD_append]; grind

end Sys2Proof
end

