-- ==== Sys2Proof/Laws/State.lean ====
section
/-! SUPPORT. One lemma per field per update of the state, true by rfl, so that no later proof unfolds a record update; and, for the
updates made of several, that they leave each other field alone. -/

namespace Sys2Proof.Machine

/-! ### setV -/
@[simp] theorem State.setV_v (s : State) (r : RegIx) (b : Byte) : (s.setV r b).v = s.v.set r.toNat b r.isLt := rfl
@[simp] theorem State.setV_I (s : State) (r : RegIx) (b : Byte) : (s.setV r b).I = s.I := rfl
@[simp] theorem State.setV_pc (s : State) (r : RegIx) (b : Byte) : (s.setV r b).pc = s.pc := rfl
@[simp] theorem State.setV_sp (s : State) (r : RegIx) (b : Byte) : (s.setV r b).sp = s.sp := rfl
@[simp] theorem State.setV_stack (s : State) (r : RegIx) (b : Byte) : (s.setV r b).stack = s.stack := rfl
@[simp] theorem State.setV_dt (s : State) (r : RegIx) (b : Byte) : (s.setV r b).dt = s.dt := rfl
@[simp] theorem State.setV_st (s : State) (r : RegIx) (b : Byte) : (s.setV r b).st = s.st := rfl
@[simp] theorem State.setV_mem (s : State) (r : RegIx) (b : Byte) : (s.setV r b).mem = s.mem := rfl
@[simp] theorem State.setV_keys (s : State) (r : RegIx) (b : Byte) : (s.setV r b).keys = s.keys := rfl
@[simp] theorem State.setV_disp (s : State) (r : RegIx) (b : Byte) : (s.setV r b).disp = s.disp := rfl
@[simp] theorem State.setV_awaiting (s : State) (r : RegIx) (b : Byte) : (s.setV r b).awaiting = s.awaiting := rfl
@[simp] theorem State.setV_awaitReg (s : State) (r : RegIx) (b : Byte) : (s.setV r b).awaitReg = s.awaitReg := rfl
@[simp] theorem State.setV_faultCode (s : State) (r : RegIx) (b : Byte) : (s.setV r b).faultCode = s.faultCode := rfl
@[simp] theorem State.setV_faultPc (s : State) (r : RegIx) (b : Byte) : (s.setV r b).faultPc = s.faultPc := rfl
@[simp] theorem State.setV_faultWord (s : State) (r : RegIx) (b : Byte) : (s.setV r b).faultWord = s.faultWord := rfl
@[simp] theorem State.setV_draws (s : State) (r : RegIx) (b : Byte) : (s.setV r b).draws = s.draws := rfl
@[simp] theorem State.setV_cfg (s : State) (r : RegIx) (b : Byte) : (s.setV r b).cfg = s.cfg := rfl
@[simp] theorem State.setV_pending (s : State) (r : RegIx) (b : Byte) : (s.setV r b).pending = s.pending := rfl

/-! ### setVF -/
@[simp] theorem State.setVF_v (s : State) (b : Byte) : (s.setVF b).v = (s.setV vfIx b).v := rfl
@[simp] theorem State.setVF_I (s : State) (b : Byte) : (s.setVF b).I = s.I := rfl
@[simp] theorem State.setVF_pc (s : State) (b : Byte) : (s.setVF b).pc = s.pc := rfl
@[simp] theorem State.setVF_sp (s : State) (b : Byte) : (s.setVF b).sp = s.sp := rfl
@[simp] theorem State.setVF_stack (s : State) (b : Byte) : (s.setVF b).stack = s.stack := rfl
@[simp] theorem State.setVF_dt (s : State) (b : Byte) : (s.setVF b).dt = s.dt := rfl
@[simp] theorem State.setVF_st (s : State) (b : Byte) : (s.setVF b).st = s.st := rfl
@[simp] theorem State.setVF_mem (s : State) (b : Byte) : (s.setVF b).mem = s.mem := rfl
@[simp] theorem State.setVF_keys (s : State) (b : Byte) : (s.setVF b).keys = s.keys := rfl
@[simp] theorem State.setVF_disp (s : State) (b : Byte) : (s.setVF b).disp = s.disp := rfl
@[simp] theorem State.setVF_awaiting (s : State) (b : Byte) : (s.setVF b).awaiting = s.awaiting := rfl
@[simp] theorem State.setVF_awaitReg (s : State) (b : Byte) : (s.setVF b).awaitReg = s.awaitReg := rfl
@[simp] theorem State.setVF_faultCode (s : State) (b : Byte) : (s.setVF b).faultCode = s.faultCode := rfl
@[simp] theorem State.setVF_faultPc (s : State) (b : Byte) : (s.setVF b).faultPc = s.faultPc := rfl
@[simp] theorem State.setVF_faultWord (s : State) (b : Byte) : (s.setVF b).faultWord = s.faultWord := rfl
@[simp] theorem State.setVF_draws (s : State) (b : Byte) : (s.setVF b).draws = s.draws := rfl
@[simp] theorem State.setVF_cfg (s : State) (b : Byte) : (s.setVF b).cfg = s.cfg := rfl
@[simp] theorem State.setVF_pending (s : State) (b : Byte) : (s.setVF b).pending = s.pending := rfl

/-! ### setI -/
@[simp] theorem State.setI_v (s : State) (w : Word) : (s.setI w).v = s.v := rfl
@[simp] theorem State.setI_I (s : State) (w : Word) : (s.setI w).I = w := rfl
@[simp] theorem State.setI_pc (s : State) (w : Word) : (s.setI w).pc = s.pc := rfl
@[simp] theorem State.setI_sp (s : State) (w : Word) : (s.setI w).sp = s.sp := rfl
@[simp] theorem State.setI_stack (s : State) (w : Word) : (s.setI w).stack = s.stack := rfl
@[simp] theorem State.setI_dt (s : State) (w : Word) : (s.setI w).dt = s.dt := rfl
@[simp] theorem State.setI_st (s : State) (w : Word) : (s.setI w).st = s.st := rfl
@[simp] theorem State.setI_mem (s : State) (w : Word) : (s.setI w).mem = s.mem := rfl
@[simp] theorem State.setI_keys (s : State) (w : Word) : (s.setI w).keys = s.keys := rfl
@[simp] theorem State.setI_disp (s : State) (w : Word) : (s.setI w).disp = s.disp := rfl
@[simp] theorem State.setI_awaiting (s : State) (w : Word) : (s.setI w).awaiting = s.awaiting := rfl
@[simp] theorem State.setI_awaitReg (s : State) (w : Word) : (s.setI w).awaitReg = s.awaitReg := rfl
@[simp] theorem State.setI_faultCode (s : State) (w : Word) : (s.setI w).faultCode = s.faultCode := rfl
@[simp] theorem State.setI_faultPc (s : State) (w : Word) : (s.setI w).faultPc = s.faultPc := rfl
@[simp] theorem State.setI_faultWord (s : State) (w : Word) : (s.setI w).faultWord = s.faultWord := rfl
@[simp] theorem State.setI_draws (s : State) (w : Word) : (s.setI w).draws = s.draws := rfl
@[simp] theorem State.setI_cfg (s : State) (w : Word) : (s.setI w).cfg = s.cfg := rfl
@[simp] theorem State.setI_pending (s : State) (w : Word) : (s.setI w).pending = s.pending := rfl

/-! ### setPc -/
@[simp] theorem State.setPc_v (s : State) (w : Word) : (s.setPc w).v = s.v := rfl
@[simp] theorem State.setPc_I (s : State) (w : Word) : (s.setPc w).I = s.I := rfl
@[simp] theorem State.setPc_pc (s : State) (w : Word) : (s.setPc w).pc = w := rfl
@[simp] theorem State.setPc_sp (s : State) (w : Word) : (s.setPc w).sp = s.sp := rfl
@[simp] theorem State.setPc_stack (s : State) (w : Word) : (s.setPc w).stack = s.stack := rfl
@[simp] theorem State.setPc_dt (s : State) (w : Word) : (s.setPc w).dt = s.dt := rfl
@[simp] theorem State.setPc_st (s : State) (w : Word) : (s.setPc w).st = s.st := rfl
@[simp] theorem State.setPc_mem (s : State) (w : Word) : (s.setPc w).mem = s.mem := rfl
@[simp] theorem State.setPc_keys (s : State) (w : Word) : (s.setPc w).keys = s.keys := rfl
@[simp] theorem State.setPc_disp (s : State) (w : Word) : (s.setPc w).disp = s.disp := rfl
@[simp] theorem State.setPc_awaiting (s : State) (w : Word) : (s.setPc w).awaiting = s.awaiting := rfl
@[simp] theorem State.setPc_awaitReg (s : State) (w : Word) : (s.setPc w).awaitReg = s.awaitReg := rfl
@[simp] theorem State.setPc_faultCode (s : State) (w : Word) : (s.setPc w).faultCode = s.faultCode := rfl
@[simp] theorem State.setPc_faultPc (s : State) (w : Word) : (s.setPc w).faultPc = s.faultPc := rfl
@[simp] theorem State.setPc_faultWord (s : State) (w : Word) : (s.setPc w).faultWord = s.faultWord := rfl
@[simp] theorem State.setPc_draws (s : State) (w : Word) : (s.setPc w).draws = s.draws := rfl
@[simp] theorem State.setPc_cfg (s : State) (w : Word) : (s.setPc w).cfg = s.cfg := rfl
@[simp] theorem State.setPc_pending (s : State) (w : Word) : (s.setPc w).pending = s.pending := rfl

/-! ### advance -/
@[simp] theorem State.advance_v (s : State) : (s.advance).v = s.v := rfl
@[simp] theorem State.advance_I (s : State) : (s.advance).I = s.I := rfl
@[simp] theorem State.advance_pc (s : State) : (s.advance).pc = s.pc + 2#16 := rfl
@[simp] theorem State.advance_sp (s : State) : (s.advance).sp = s.sp := rfl
@[simp] theorem State.advance_stack (s : State) : (s.advance).stack = s.stack := rfl
@[simp] theorem State.advance_dt (s : State) : (s.advance).dt = s.dt := rfl
@[simp] theorem State.advance_st (s : State) : (s.advance).st = s.st := rfl
@[simp] theorem State.advance_mem (s : State) : (s.advance).mem = s.mem := rfl
@[simp] theorem State.advance_keys (s : State) : (s.advance).keys = s.keys := rfl
@[simp] theorem State.advance_disp (s : State) : (s.advance).disp = s.disp := rfl
@[simp] theorem State.advance_awaiting (s : State) : (s.advance).awaiting = s.awaiting := rfl
@[simp] theorem State.advance_awaitReg (s : State) : (s.advance).awaitReg = s.awaitReg := rfl
@[simp] theorem State.advance_faultCode (s : State) : (s.advance).faultCode = s.faultCode := rfl
@[simp] theorem State.advance_faultPc (s : State) : (s.advance).faultPc = s.faultPc := rfl
@[simp] theorem State.advance_faultWord (s : State) : (s.advance).faultWord = s.faultWord := rfl
@[simp] theorem State.advance_draws (s : State) : (s.advance).draws = s.draws := rfl
@[simp] theorem State.advance_cfg (s : State) : (s.advance).cfg = s.cfg := rfl
@[simp] theorem State.advance_pending (s : State) : (s.advance).pending = s.pending := rfl

/-! ### skip -/
@[simp] theorem State.skip_v (s : State) : (s.skip).v = s.v := rfl
@[simp] theorem State.skip_I (s : State) : (s.skip).I = s.I := rfl
@[simp] theorem State.skip_pc (s : State) : (s.skip).pc = s.pc + 2#16 := rfl
@[simp] theorem State.skip_sp (s : State) : (s.skip).sp = s.sp := rfl
@[simp] theorem State.skip_stack (s : State) : (s.skip).stack = s.stack := rfl
@[simp] theorem State.skip_dt (s : State) : (s.skip).dt = s.dt := rfl
@[simp] theorem State.skip_st (s : State) : (s.skip).st = s.st := rfl
@[simp] theorem State.skip_mem (s : State) : (s.skip).mem = s.mem := rfl
@[simp] theorem State.skip_keys (s : State) : (s.skip).keys = s.keys := rfl
@[simp] theorem State.skip_disp (s : State) : (s.skip).disp = s.disp := rfl
@[simp] theorem State.skip_awaiting (s : State) : (s.skip).awaiting = s.awaiting := rfl
@[simp] theorem State.skip_awaitReg (s : State) : (s.skip).awaitReg = s.awaitReg := rfl
@[simp] theorem State.skip_faultCode (s : State) : (s.skip).faultCode = s.faultCode := rfl
@[simp] theorem State.skip_faultPc (s : State) : (s.skip).faultPc = s.faultPc := rfl
@[simp] theorem State.skip_faultWord (s : State) : (s.skip).faultWord = s.faultWord := rfl
@[simp] theorem State.skip_draws (s : State) : (s.skip).draws = s.draws := rfl
@[simp] theorem State.skip_cfg (s : State) : (s.skip).cfg = s.cfg := rfl
@[simp] theorem State.skip_pending (s : State) : (s.skip).pending = s.pending := rfl

/-! ### setDT -/
@[simp] theorem State.setDT_v (s : State) (b : Byte) : (s.setDT b).v = s.v := rfl
@[simp] theorem State.setDT_I (s : State) (b : Byte) : (s.setDT b).I = s.I := rfl
@[simp] theorem State.setDT_pc (s : State) (b : Byte) : (s.setDT b).pc = s.pc := rfl
@[simp] theorem State.setDT_sp (s : State) (b : Byte) : (s.setDT b).sp = s.sp := rfl
@[simp] theorem State.setDT_stack (s : State) (b : Byte) : (s.setDT b).stack = s.stack := rfl
@[simp] theorem State.setDT_dt (s : State) (b : Byte) : (s.setDT b).dt = b := rfl
@[simp] theorem State.setDT_st (s : State) (b : Byte) : (s.setDT b).st = s.st := rfl
@[simp] theorem State.setDT_mem (s : State) (b : Byte) : (s.setDT b).mem = s.mem := rfl
@[simp] theorem State.setDT_keys (s : State) (b : Byte) : (s.setDT b).keys = s.keys := rfl
@[simp] theorem State.setDT_disp (s : State) (b : Byte) : (s.setDT b).disp = s.disp := rfl
@[simp] theorem State.setDT_awaiting (s : State) (b : Byte) : (s.setDT b).awaiting = s.awaiting := rfl
@[simp] theorem State.setDT_awaitReg (s : State) (b : Byte) : (s.setDT b).awaitReg = s.awaitReg := rfl
@[simp] theorem State.setDT_faultCode (s : State) (b : Byte) : (s.setDT b).faultCode = s.faultCode := rfl
@[simp] theorem State.setDT_faultPc (s : State) (b : Byte) : (s.setDT b).faultPc = s.faultPc := rfl
@[simp] theorem State.setDT_faultWord (s : State) (b : Byte) : (s.setDT b).faultWord = s.faultWord := rfl
@[simp] theorem State.setDT_draws (s : State) (b : Byte) : (s.setDT b).draws = s.draws := rfl
@[simp] theorem State.setDT_cfg (s : State) (b : Byte) : (s.setDT b).cfg = s.cfg := rfl
@[simp] theorem State.setDT_pending (s : State) (b : Byte) : (s.setDT b).pending = s.pending := rfl

/-! ### setST -/
@[simp] theorem State.setST_v (s : State) (b : Byte) : (s.setST b).v = s.v := rfl
@[simp] theorem State.setST_I (s : State) (b : Byte) : (s.setST b).I = s.I := rfl
@[simp] theorem State.setST_pc (s : State) (b : Byte) : (s.setST b).pc = s.pc := rfl
@[simp] theorem State.setST_sp (s : State) (b : Byte) : (s.setST b).sp = s.sp := rfl
@[simp] theorem State.setST_stack (s : State) (b : Byte) : (s.setST b).stack = s.stack := rfl
@[simp] theorem State.setST_dt (s : State) (b : Byte) : (s.setST b).dt = s.dt := rfl
@[simp] theorem State.setST_st (s : State) (b : Byte) : (s.setST b).st = b := rfl
@[simp] theorem State.setST_mem (s : State) (b : Byte) : (s.setST b).mem = s.mem := rfl
@[simp] theorem State.setST_keys (s : State) (b : Byte) : (s.setST b).keys = s.keys := rfl
@[simp] theorem State.setST_disp (s : State) (b : Byte) : (s.setST b).disp = s.disp := rfl
@[simp] theorem State.setST_awaiting (s : State) (b : Byte) : (s.setST b).awaiting = s.awaiting := rfl
@[simp] theorem State.setST_awaitReg (s : State) (b : Byte) : (s.setST b).awaitReg = s.awaitReg := rfl
@[simp] theorem State.setST_faultCode (s : State) (b : Byte) : (s.setST b).faultCode = s.faultCode := rfl
@[simp] theorem State.setST_faultPc (s : State) (b : Byte) : (s.setST b).faultPc = s.faultPc := rfl
@[simp] theorem State.setST_faultWord (s : State) (b : Byte) : (s.setST b).faultWord = s.faultWord := rfl
@[simp] theorem State.setST_draws (s : State) (b : Byte) : (s.setST b).draws = s.draws := rfl
@[simp] theorem State.setST_cfg (s : State) (b : Byte) : (s.setST b).cfg = s.cfg := rfl
@[simp] theorem State.setST_pending (s : State) (b : Byte) : (s.setST b).pending = s.pending := rfl

/-! ### writeByte -/
@[simp] theorem State.writeByte_v (s : State) (a : Nat) (b : Byte) : (s.writeByte a b).v = s.v := rfl
@[simp] theorem State.writeByte_I (s : State) (a : Nat) (b : Byte) : (s.writeByte a b).I = s.I := rfl
@[simp] theorem State.writeByte_pc (s : State) (a : Nat) (b : Byte) : (s.writeByte a b).pc = s.pc := rfl
@[simp] theorem State.writeByte_sp (s : State) (a : Nat) (b : Byte) : (s.writeByte a b).sp = s.sp := rfl
@[simp] theorem State.writeByte_stack (s : State) (a : Nat) (b : Byte) : (s.writeByte a b).stack = s.stack := rfl
@[simp] theorem State.writeByte_dt (s : State) (a : Nat) (b : Byte) : (s.writeByte a b).dt = s.dt := rfl
@[simp] theorem State.writeByte_st (s : State) (a : Nat) (b : Byte) : (s.writeByte a b).st = s.st := rfl
@[simp] theorem State.writeByte_mem (s : State) (a : Nat) (b : Byte) : (s.writeByte a b).mem = memPut s.cfg s.mem a b := rfl
@[simp] theorem State.writeByte_keys (s : State) (a : Nat) (b : Byte) : (s.writeByte a b).keys = s.keys := rfl
@[simp] theorem State.writeByte_disp (s : State) (a : Nat) (b : Byte) : (s.writeByte a b).disp = s.disp := rfl
@[simp] theorem State.writeByte_awaiting (s : State) (a : Nat) (b : Byte) : (s.writeByte a b).awaiting = s.awaiting := rfl
@[simp] theorem State.writeByte_awaitReg (s : State) (a : Nat) (b : Byte) : (s.writeByte a b).awaitReg = s.awaitReg := rfl
@[simp] theorem State.writeByte_faultCode (s : State) (a : Nat) (b : Byte) : (s.writeByte a b).faultCode = s.faultCode := rfl
@[simp] theorem State.writeByte_faultPc (s : State) (a : Nat) (b : Byte) : (s.writeByte a b).faultPc = s.faultPc := rfl
@[simp] theorem State.writeByte_faultWord (s : State) (a : Nat) (b : Byte) : (s.writeByte a b).faultWord = s.faultWord := rfl
@[simp] theorem State.writeByte_draws (s : State) (a : Nat) (b : Byte) : (s.writeByte a b).draws = s.draws := rfl
@[simp] theorem State.writeByte_cfg (s : State) (a : Nat) (b : Byte) : (s.writeByte a b).cfg = s.cfg := rfl
@[simp] theorem State.writeByte_pending (s : State) (a : Nat) (b : Byte) : (s.writeByte a b).pending = s.pending := rfl

/-! ### writeKey -/
@[simp] theorem State.writeKey_v (s : State) (k : Key) (p : Bool) : (s.writeKey k p).v = s.v := rfl
@[simp] theorem State.writeKey_I (s : State) (k : Key) (p : Bool) : (s.writeKey k p).I = s.I := rfl
@[simp] theorem State.writeKey_pc (s : State) (k : Key) (p : Bool) : (s.writeKey k p).pc = s.pc := rfl
@[simp] theorem State.writeKey_sp (s : State) (k : Key) (p : Bool) : (s.writeKey k p).sp = s.sp := rfl
@[simp] theorem State.writeKey_stack (s : State) (k : Key) (p : Bool) : (s.writeKey k p).stack = s.stack := rfl
@[simp] theorem State.writeKey_dt (s : State) (k : Key) (p : Bool) : (s.writeKey k p).dt = s.dt := rfl
@[simp] theorem State.writeKey_st (s : State) (k : Key) (p : Bool) : (s.writeKey k p).st = s.st := rfl
@[simp] theorem State.writeKey_mem (s : State) (k : Key) (p : Bool) : (s.writeKey k p).mem = s.mem := rfl
@[simp] theorem State.writeKey_keys (s : State) (k : Key) (p : Bool) : (s.writeKey k p).keys = s.keys.set k.toNat p k.isLt := rfl
@[simp] theorem State.writeKey_disp (s : State) (k : Key) (p : Bool) : (s.writeKey k p).disp = s.disp := rfl
@[simp] theorem State.writeKey_awaiting (s : State) (k : Key) (p : Bool) : (s.writeKey k p).awaiting = s.awaiting := rfl
@[simp] theorem State.writeKey_awaitReg (s : State) (k : Key) (p : Bool) : (s.writeKey k p).awaitReg = s.awaitReg := rfl
@[simp] theorem State.writeKey_faultCode (s : State) (k : Key) (p : Bool) : (s.writeKey k p).faultCode = s.faultCode := rfl
@[simp] theorem State.writeKey_faultPc (s : State) (k : Key) (p : Bool) : (s.writeKey k p).faultPc = s.faultPc := rfl
@[simp] theorem State.writeKey_faultWord (s : State) (k : Key) (p : Bool) : (s.writeKey k p).faultWord = s.faultWord := rfl
@[simp] theorem State.writeKey_draws (s : State) (k : Key) (p : Bool) : (s.writeKey k p).draws = s.draws := rfl
@[simp] theorem State.writeKey_cfg (s : State) (k : Key) (p : Bool) : (s.writeKey k p).cfg = s.cfg := rfl
@[simp] theorem State.writeKey_pending (s : State) (k : Key) (p : Bool) : (s.writeKey k p).pending = s.pending := rfl

/-! ### startWait -/
@[simp] theorem State.startWait_v (s : State) (x : RegIx) : (s.startWait x).v = s.v := rfl
@[simp] theorem State.startWait_I (s : State) (x : RegIx) : (s.startWait x).I = s.I := rfl
@[simp] theorem State.startWait_pc (s : State) (x : RegIx) : (s.startWait x).pc = s.pc := rfl
@[simp] theorem State.startWait_sp (s : State) (x : RegIx) : (s.startWait x).sp = s.sp := rfl
@[simp] theorem State.startWait_stack (s : State) (x : RegIx) : (s.startWait x).stack = s.stack := rfl
@[simp] theorem State.startWait_dt (s : State) (x : RegIx) : (s.startWait x).dt = s.dt := rfl
@[simp] theorem State.startWait_st (s : State) (x : RegIx) : (s.startWait x).st = s.st := rfl
@[simp] theorem State.startWait_mem (s : State) (x : RegIx) : (s.startWait x).mem = s.mem := rfl
@[simp] theorem State.startWait_keys (s : State) (x : RegIx) : (s.startWait x).keys = s.keys := rfl
@[simp] theorem State.startWait_disp (s : State) (x : RegIx) : (s.startWait x).disp = s.disp := rfl
@[simp] theorem State.startWait_awaiting (s : State) (x : RegIx) : (s.startWait x).awaiting = true := rfl
@[simp] theorem State.startWait_awaitReg (s : State) (x : RegIx) : (s.startWait x).awaitReg = x := rfl
@[simp] theorem State.startWait_faultCode (s : State) (x : RegIx) : (s.startWait x).faultCode = s.faultCode := rfl
@[simp] theorem State.startWait_faultPc (s : State) (x : RegIx) : (s.startWait x).faultPc = s.faultPc := rfl
@[simp] theorem State.startWait_faultWord (s : State) (x : RegIx) : (s.startWait x).faultWord = s.faultWord := rfl
@[simp] theorem State.startWait_draws (s : State) (x : RegIx) : (s.startWait x).draws = s.draws := rfl
@[simp] theorem State.startWait_cfg (s : State) (x : RegIx) : (s.startWait x).cfg = s.cfg := rfl
@[simp] theorem State.startWait_pending (s : State) (x : RegIx) : (s.startWait x).pending = s.pending := rfl

/-! ### endWait -/
@[simp] theorem State.endWait_v (s : State) : (s.endWait).v = s.v := rfl
@[simp] theorem State.endWait_I (s : State) : (s.endWait).I = s.I := rfl
@[simp] theorem State.endWait_pc (s : State) : (s.endWait).pc = s.pc := rfl
@[simp] theorem State.endWait_sp (s : State) : (s.endWait).sp = s.sp := rfl
@[simp] theorem State.endWait_stack (s : State) : (s.endWait).stack = s.stack := rfl
@[simp] theorem State.endWait_dt (s : State) : (s.endWait).dt = s.dt := rfl
@[simp] theorem State.endWait_st (s : State) : (s.endWait).st = s.st := rfl
@[simp] theorem State.endWait_mem (s : State) : (s.endWait).mem = s.mem := rfl
@[simp] theorem State.endWait_keys (s : State) : (s.endWait).keys = s.keys := rfl
@[simp] theorem State.endWait_disp (s : State) : (s.endWait).disp = s.disp := rfl
@[simp] theorem State.endWait_awaiting (s : State) : (s.endWait).awaiting = false := rfl
@[simp] theorem State.endWait_awaitReg (s : State) : (s.endWait).awaitReg = s.awaitReg := rfl
@[simp] theorem State.endWait_faultCode (s : State) : (s.endWait).faultCode = s.faultCode := rfl
@[simp] theorem State.endWait_faultPc (s : State) : (s.endWait).faultPc = s.faultPc := rfl
@[simp] theorem State.endWait_faultWord (s : State) : (s.endWait).faultWord = s.faultWord := rfl
@[simp] theorem State.endWait_draws (s : State) : (s.endWait).draws = s.draws := rfl
@[simp] theorem State.endWait_cfg (s : State) : (s.endWait).cfg = s.cfg := rfl
@[simp] theorem State.endWait_pending (s : State) : (s.endWait).pending = s.pending := rfl

/-! ### setDisp -/
@[simp] theorem State.setDisp_v (s : State) (d : Display) : (s.setDisp d).v = s.v := rfl
@[simp] theorem State.setDisp_I (s : State) (d : Display) : (s.setDisp d).I = s.I := rfl
@[simp] theorem State.setDisp_pc (s : State) (d : Display) : (s.setDisp d).pc = s.pc := rfl
@[simp] theorem State.setDisp_sp (s : State) (d : Display) : (s.setDisp d).sp = s.sp := rfl
@[simp] theorem State.setDisp_stack (s : State) (d : Display) : (s.setDisp d).stack = s.stack := rfl
@[simp] theorem State.setDisp_dt (s : State) (d : Display) : (s.setDisp d).dt = s.dt := rfl
@[simp] theorem State.setDisp_st (s : State) (d : Display) : (s.setDisp d).st = s.st := rfl
@[simp] theorem State.setDisp_mem (s : State) (d : Display) : (s.setDisp d).mem = s.mem := rfl
@[simp] theorem State.setDisp_keys (s : State) (d : Display) : (s.setDisp d).keys = s.keys := rfl
@[simp] theorem State.setDisp_disp (s : State) (d : Display) : (s.setDisp d).disp = d := rfl
@[simp] theorem State.setDisp_awaiting (s : State) (d : Display) : (s.setDisp d).awaiting = s.awaiting := rfl
@[simp] theorem State.setDisp_awaitReg (s : State) (d : Display) : (s.setDisp d).awaitReg = s.awaitReg := rfl
@[simp] theorem State.setDisp_faultCode (s : State) (d : Display) : (s.setDisp d).faultCode = s.faultCode := rfl
@[simp] theorem State.setDisp_faultPc (s : State) (d : Display) : (s.setDisp d).faultPc = s.faultPc := rfl
@[simp] theorem State.setDisp_faultWord (s : State) (d : Display) : (s.setDisp d).faultWord = s.faultWord := rfl
@[simp] theorem State.setDisp_draws (s : State) (d : Display) : (s.setDisp d).draws = s.draws := rfl
@[simp] theorem State.setDisp_cfg (s : State) (d : Display) : (s.setDisp d).cfg = s.cfg := rfl
@[simp] theorem State.setDisp_pending (s : State) (d : Display) : (s.setDisp d).pending = s.pending := rfl

/-! ### clearDisplay -/
@[simp] theorem State.clearDisplay_v (s : State) : (s.clearDisplay).v = s.v := rfl
@[simp] theorem State.clearDisplay_I (s : State) : (s.clearDisplay).I = s.I := rfl
@[simp] theorem State.clearDisplay_pc (s : State) : (s.clearDisplay).pc = s.pc := rfl
@[simp] theorem State.clearDisplay_sp (s : State) : (s.clearDisplay).sp = s.sp := rfl
@[simp] theorem State.clearDisplay_stack (s : State) : (s.clearDisplay).stack = s.stack := rfl
@[simp] theorem State.clearDisplay_dt (s : State) : (s.clearDisplay).dt = s.dt := rfl
@[simp] theorem State.clearDisplay_st (s : State) : (s.clearDisplay).st = s.st := rfl
@[simp] theorem State.clearDisplay_mem (s : State) : (s.clearDisplay).mem = s.mem := rfl
@[simp] theorem State.clearDisplay_keys (s : State) : (s.clearDisplay).keys = s.keys := rfl
@[simp] theorem State.clearDisplay_disp (s : State) : (s.clearDisplay).disp = blankDisplay := rfl
@[simp] theorem State.clearDisplay_awaiting (s : State) : (s.clearDisplay).awaiting = s.awaiting := rfl
@[simp] theorem State.clearDisplay_awaitReg (s : State) : (s.clearDisplay).awaitReg = s.awaitReg := rfl
@[simp] theorem State.clearDisplay_faultCode (s : State) : (s.clearDisplay).faultCode = s.faultCode := rfl
@[simp] theorem State.clearDisplay_faultPc (s : State) : (s.clearDisplay).faultPc = s.faultPc := rfl
@[simp] theorem State.clearDisplay_faultWord (s : State) : (s.clearDisplay).faultWord = s.faultWord := rfl
@[simp] theorem State.clearDisplay_draws (s : State) : (s.clearDisplay).draws = s.draws := rfl
@[simp] theorem State.clearDisplay_cfg (s : State) : (s.clearDisplay).cfg = s.cfg := rfl
@[simp] theorem State.clearDisplay_pending (s : State) : (s.clearDisplay).pending = s.pending := rfl

/-! ### countDraw -/
@[simp] theorem State.countDraw_v (s : State) : (s.countDraw).v = s.v := rfl
@[simp] theorem State.countDraw_I (s : State) : (s.countDraw).I = s.I := rfl
@[simp] theorem State.countDraw_pc (s : State) : (s.countDraw).pc = s.pc := rfl
@[simp] theorem State.countDraw_sp (s : State) : (s.countDraw).sp = s.sp := rfl
@[simp] theorem State.countDraw_stack (s : State) : (s.countDraw).stack = s.stack := rfl
@[simp] theorem State.countDraw_dt (s : State) : (s.countDraw).dt = s.dt := rfl
@[simp] theorem State.countDraw_st (s : State) : (s.countDraw).st = s.st := rfl
@[simp] theorem State.countDraw_mem (s : State) : (s.countDraw).mem = s.mem := rfl
@[simp] theorem State.countDraw_keys (s : State) : (s.countDraw).keys = s.keys := rfl
@[simp] theorem State.countDraw_disp (s : State) : (s.countDraw).disp = s.disp := rfl
@[simp] theorem State.countDraw_awaiting (s : State) : (s.countDraw).awaiting = s.awaiting := rfl
@[simp] theorem State.countDraw_awaitReg (s : State) : (s.countDraw).awaitReg = s.awaitReg := rfl
@[simp] theorem State.countDraw_faultCode (s : State) : (s.countDraw).faultCode = s.faultCode := rfl
@[simp] theorem State.countDraw_faultPc (s : State) : (s.countDraw).faultPc = s.faultPc := rfl
@[simp] theorem State.countDraw_faultWord (s : State) : (s.countDraw).faultWord = s.faultWord := rfl
@[simp] theorem State.countDraw_draws (s : State) : (s.countDraw).draws = s.draws + 1 := rfl
@[simp] theorem State.countDraw_cfg (s : State) : (s.countDraw).cfg = s.cfg := rfl
@[simp] theorem State.countDraw_pending (s : State) : (s.countDraw).pending = s.pending := rfl

/-! ### latch -/
@[simp] theorem State.latch_v (s : State) (e : CoreError) (a w : Word) : (s.latch e a w).v = s.v := rfl
@[simp] theorem State.latch_I (s : State) (e : CoreError) (a w : Word) : (s.latch e a w).I = s.I := rfl
@[simp] theorem State.latch_pc (s : State) (e : CoreError) (a w : Word) : (s.latch e a w).pc = a := rfl
@[simp] theorem State.latch_sp (s : State) (e : CoreError) (a w : Word) : (s.latch e a w).sp = s.sp := rfl
@[simp] theorem State.latch_stack (s : State) (e : CoreError) (a w : Word) : (s.latch e a w).stack = s.stack := rfl
@[simp] theorem State.latch_dt (s : State) (e : CoreError) (a w : Word) : (s.latch e a w).dt = s.dt := rfl
@[simp] theorem State.latch_st (s : State) (e : CoreError) (a w : Word) : (s.latch e a w).st = s.st := rfl
@[simp] theorem State.latch_mem (s : State) (e : CoreError) (a w : Word) : (s.latch e a w).mem = s.mem := rfl
@[simp] theorem State.latch_keys (s : State) (e : CoreError) (a w : Word) : (s.latch e a w).keys = s.keys := rfl
@[simp] theorem State.latch_disp (s : State) (e : CoreError) (a w : Word) : (s.latch e a w).disp = s.disp := rfl
@[simp] theorem State.latch_awaiting (s : State) (e : CoreError) (a w : Word) : (s.latch e a w).awaiting = s.awaiting := rfl
@[simp] theorem State.latch_awaitReg (s : State) (e : CoreError) (a w : Word) : (s.latch e a w).awaitReg = s.awaitReg := rfl
@[simp] theorem State.latch_faultCode (s : State) (e : CoreError) (a w : Word) : (s.latch e a w).faultCode = e.code := rfl
@[simp] theorem State.latch_faultPc (s : State) (e : CoreError) (a w : Word) : (s.latch e a w).faultPc = a := rfl
@[simp] theorem State.latch_faultWord (s : State) (e : CoreError) (a w : Word) : (s.latch e a w).faultWord = w := rfl
@[simp] theorem State.latch_draws (s : State) (e : CoreError) (a w : Word) : (s.latch e a w).draws = s.draws := rfl
@[simp] theorem State.latch_cfg (s : State) (e : CoreError) (a w : Word) : (s.latch e a w).cfg = s.cfg := rfl
@[simp] theorem State.latch_pending (s : State) (e : CoreError) (a w : Word) : (s.latch e a w).pending = s.pending := rfl

/-! ### clearFault -/
@[simp] theorem State.clearFault_v (s : State) : (s.clearFault).v = s.v := rfl
@[simp] theorem State.clearFault_I (s : State) : (s.clearFault).I = s.I := rfl
@[simp] theorem State.clearFault_pc (s : State) : (s.clearFault).pc = s.pc := rfl
@[simp] theorem State.clearFault_sp (s : State) : (s.clearFault).sp = s.sp := rfl
@[simp] theorem State.clearFault_stack (s : State) : (s.clearFault).stack = s.stack := rfl
@[simp] theorem State.clearFault_dt (s : State) : (s.clearFault).dt = s.dt := rfl
@[simp] theorem State.clearFault_st (s : State) : (s.clearFault).st = s.st := rfl
@[simp] theorem State.clearFault_mem (s : State) : (s.clearFault).mem = s.mem := rfl
@[simp] theorem State.clearFault_keys (s : State) : (s.clearFault).keys = s.keys := rfl
@[simp] theorem State.clearFault_disp (s : State) : (s.clearFault).disp = s.disp := rfl
@[simp] theorem State.clearFault_awaiting (s : State) : (s.clearFault).awaiting = s.awaiting := rfl
@[simp] theorem State.clearFault_awaitReg (s : State) : (s.clearFault).awaitReg = s.awaitReg := rfl
@[simp] theorem State.clearFault_faultCode (s : State) : (s.clearFault).faultCode = 0#3 := rfl
@[simp] theorem State.clearFault_faultPc (s : State) : (s.clearFault).faultPc = 0#16 := rfl
@[simp] theorem State.clearFault_faultWord (s : State) : (s.clearFault).faultWord = 0#16 := rfl
@[simp] theorem State.clearFault_draws (s : State) : (s.clearFault).draws = s.draws := rfl
@[simp] theorem State.clearFault_cfg (s : State) : (s.clearFault).cfg = s.cfg := rfl
@[simp] theorem State.clearFault_pending (s : State) : (s.clearFault).pending = s.pending := rfl

/-! ### takeOp -/
@[simp] theorem State.takeOp_v (s : State) : (s.takeOp).v = s.v := rfl
@[simp] theorem State.takeOp_I (s : State) : (s.takeOp).I = s.I := rfl
@[simp] theorem State.takeOp_pc (s : State) : (s.takeOp).pc = s.pc := rfl
@[simp] theorem State.takeOp_sp (s : State) : (s.takeOp).sp = s.sp := rfl
@[simp] theorem State.takeOp_stack (s : State) : (s.takeOp).stack = s.stack := rfl
@[simp] theorem State.takeOp_dt (s : State) : (s.takeOp).dt = s.dt := rfl
@[simp] theorem State.takeOp_st (s : State) : (s.takeOp).st = s.st := rfl
@[simp] theorem State.takeOp_mem (s : State) : (s.takeOp).mem = s.mem := rfl
@[simp] theorem State.takeOp_keys (s : State) : (s.takeOp).keys = s.keys := rfl
@[simp] theorem State.takeOp_disp (s : State) : (s.takeOp).disp = s.disp := rfl
@[simp] theorem State.takeOp_awaiting (s : State) : (s.takeOp).awaiting = s.awaiting := rfl
@[simp] theorem State.takeOp_awaitReg (s : State) : (s.takeOp).awaitReg = s.awaitReg := rfl
@[simp] theorem State.takeOp_faultCode (s : State) : (s.takeOp).faultCode = s.faultCode := rfl
@[simp] theorem State.takeOp_faultPc (s : State) : (s.takeOp).faultPc = s.faultPc := rfl
@[simp] theorem State.takeOp_faultWord (s : State) : (s.takeOp).faultWord = s.faultWord := rfl
@[simp] theorem State.takeOp_draws (s : State) : (s.takeOp).draws = s.draws := rfl
@[simp] theorem State.takeOp_cfg (s : State) : (s.takeOp).cfg = s.cfg := rfl
@[simp] theorem State.takeOp_pending (s : State) : (s.takeOp).pending = s.pending.tail := rfl

/-! ### skipIf -/
@[simp] theorem State.skipIf_pc (s : State) (c : Bool) : (s.skipIf c).pc = if c then s.pc + 2#16 else s.pc := by
  cases c <;> rfl
@[simp] theorem State.skipIf_v (s : State) (c : Bool) : (s.skipIf c).v = s.v := by cases c <;> rfl
@[simp] theorem State.skipIf_I (s : State) (c : Bool) : (s.skipIf c).I = s.I := by cases c <;> rfl
@[simp] theorem State.skipIf_sp (s : State) (c : Bool) : (s.skipIf c).sp = s.sp := by cases c <;> rfl
@[simp] theorem State.skipIf_stack (s : State) (c : Bool) : (s.skipIf c).stack = s.stack := by cases c <;> rfl
@[simp] theorem State.skipIf_dt (s : State) (c : Bool) : (s.skipIf c).dt = s.dt := by cases c <;> rfl
@[simp] theorem State.skipIf_st (s : State) (c : Bool) : (s.skipIf c).st = s.st := by cases c <;> rfl
@[simp] theorem State.skipIf_mem (s : State) (c : Bool) : (s.skipIf c).mem = s.mem := by cases c <;> rfl
@[simp] theorem State.skipIf_keys (s : State) (c : Bool) : (s.skipIf c).keys = s.keys := by cases c <;> rfl
@[simp] theorem State.skipIf_disp (s : State) (c : Bool) : (s.skipIf c).disp = s.disp := by cases c <;> rfl
@[simp] theorem State.skipIf_awaiting (s : State) (c : Bool) : (s.skipIf c).awaiting = s.awaiting := by cases c <;> rfl
@[simp] theorem State.skipIf_awaitReg (s : State) (c : Bool) : (s.skipIf c).awaitReg = s.awaitReg := by cases c <;> rfl
@[simp] theorem State.skipIf_faultCode (s : State) (c : Bool) : (s.skipIf c).faultCode = s.faultCode := by cases c <;> rfl
@[simp] theorem State.skipIf_faultPc (s : State) (c : Bool) : (s.skipIf c).faultPc = s.faultPc := by cases c <;> rfl
@[simp] theorem State.skipIf_faultWord (s : State) (c : Bool) : (s.skipIf c).faultWord = s.faultWord := by cases c <;> rfl
@[simp] theorem State.skipIf_draws (s : State) (c : Bool) : (s.skipIf c).draws = s.draws := by cases c <;> rfl
@[simp] theorem State.skipIf_cfg (s : State) (c : Bool) : (s.skipIf c).cfg = s.cfg := by cases c <;> rfl
@[simp] theorem State.skipIf_pending (s : State) (c : Bool) : (s.skipIf c).pending = s.pending := by cases c <;> rfl

/-! ### setVs -/
@[simp] theorem State.setVs_I (s : State) (k : Nat) (bs : List Byte) : (s.setVs k bs).I = s.I := by
  induction bs generalizing s k with
  | nil => rfl
  | cons b bs ih => exact ih _ _
@[simp] theorem State.setVs_pc (s : State) (k : Nat) (bs : List Byte) : (s.setVs k bs).pc = s.pc := by
  induction bs generalizing s k with
  | nil => rfl
  | cons b bs ih => exact ih _ _
@[simp] theorem State.setVs_sp (s : State) (k : Nat) (bs : List Byte) : (s.setVs k bs).sp = s.sp := by
  induction bs generalizing s k with
  | nil => rfl
  | cons b bs ih => exact ih _ _
@[simp] theorem State.setVs_stack (s : State) (k : Nat) (bs : List Byte) : (s.setVs k bs).stack = s.stack := by
  induction bs generalizing s k with
  | nil => rfl
  | cons b bs ih => exact ih _ _
@[simp] theorem State.setVs_dt (s : State) (k : Nat) (bs : List Byte) : (s.setVs k bs).dt = s.dt := by
  induction bs generalizing s k with
  | nil => rfl
  | cons b bs ih => exact ih _ _
@[simp] theorem State.setVs_st (s : State) (k : Nat) (bs : List Byte) : (s.setVs k bs).st = s.st := by
  induction bs generalizing s k with
  | nil => rfl
  | cons b bs ih => exact ih _ _
@[simp] theorem State.setVs_mem (s : State) (k : Nat) (bs : List Byte) : (s.setVs k bs).mem = s.mem := by
  induction bs generalizing s k with
  | nil => rfl
  | cons b bs ih => exact ih _ _
@[simp] theorem State.setVs_keys (s : State) (k : Nat) (bs : List Byte) : (s.setVs k bs).keys = s.keys := by
  induction bs generalizing s k with
  | nil => rfl
  | cons b bs ih => exact ih _ _
@[simp] theorem State.setVs_disp (s : State) (k : Nat) (bs : List Byte) : (s.setVs k bs).disp = s.disp := by
  induction bs generalizing s k with
  | nil => rfl
  | cons b bs ih => exact ih _ _
@[simp] theorem State.setVs_awaiting (s : State) (k : Nat) (bs : List Byte) : (s.setVs k bs).awaiting = s.awaiting := by
  induction bs generalizing s k with
  | nil => rfl
  | cons b bs ih => exact ih _ _
@[simp] theorem State.setVs_awaitReg (s : State) (k : Nat) (bs : List Byte) : (s.setVs k bs).awaitReg = s.awaitReg := by
  induction bs generalizing s k with
  | nil => rfl
  | cons b bs ih => exact ih _ _
@[simp] theorem State.setVs_faultCode (s : State) (k : Nat) (bs : List Byte) : (s.setVs k bs).faultCode = s.faultCode := by
  induction bs generalizing s k with
  | nil => rfl
  | cons b bs ih => exact ih _ _
@[simp] theorem State.setVs_faultPc (s : State) (k : Nat) (bs : List Byte) : (s.setVs k bs).faultPc = s.faultPc := by
  induction bs generalizing s k with
  | nil => rfl
  | cons b bs ih => exact ih _ _
@[simp] theorem State.setVs_faultWord (s : State) (k : Nat) (bs : List Byte) : (s.setVs k bs).faultWord = s.faultWord := by
  induction bs generalizing s k with
  | nil => rfl
  | cons b bs ih => exact ih _ _
@[simp] theorem State.setVs_draws (s : State) (k : Nat) (bs : List Byte) : (s.setVs k bs).draws = s.draws := by
  induction bs generalizing s k with
  | nil => rfl
  | cons b bs ih => exact ih _ _
@[simp] theorem State.setVs_cfg (s : State) (k : Nat) (bs : List Byte) : (s.setVs k bs).cfg = s.cfg := by
  induction bs generalizing s k with
  | nil => rfl
  | cons b bs ih => exact ih _ _
@[simp] theorem State.setVs_pending (s : State) (k : Nat) (bs : List Byte) : (s.setVs k bs).pending = s.pending := by
  induction bs generalizing s k with
  | nil => rfl
  | cons b bs ih => exact ih _ _

/-! ### writeBytes -/
@[simp] theorem State.writeBytes_v (s : State) (a : Nat) (bs : List Byte) : (s.writeBytes a bs).v = s.v := by
  induction bs generalizing s a with
  | nil => rfl
  | cons b bs ih => exact ih _ _
@[simp] theorem State.writeBytes_I (s : State) (a : Nat) (bs : List Byte) : (s.writeBytes a bs).I = s.I := by
  induction bs generalizing s a with
  | nil => rfl
  | cons b bs ih => exact ih _ _
@[simp] theorem State.writeBytes_pc (s : State) (a : Nat) (bs : List Byte) : (s.writeBytes a bs).pc = s.pc := by
  induction bs generalizing s a with
  | nil => rfl
  | cons b bs ih => exact ih _ _
@[simp] theorem State.writeBytes_sp (s : State) (a : Nat) (bs : List Byte) : (s.writeBytes a bs).sp = s.sp := by
  induction bs generalizing s a with
  | nil => rfl
  | cons b bs ih => exact ih _ _
@[simp] theorem State.writeBytes_stack (s : State) (a : Nat) (bs : List Byte) : (s.writeBytes a bs).stack = s.stack := by
  induction bs generalizing s a with
  | nil => rfl
  | cons b bs ih => exact ih _ _
@[simp] theorem State.writeBytes_dt (s : State) (a : Nat) (bs : List Byte) : (s.writeBytes a bs).dt = s.dt := by
  induction bs generalizing s a with
  | nil => rfl
  | cons b bs ih => exact ih _ _
@[simp] theorem State.writeBytes_st (s : State) (a : Nat) (bs : List Byte) : (s.writeBytes a bs).st = s.st := by
  induction bs generalizing s a with
  | nil => rfl
  | cons b bs ih => exact ih _ _
@[simp] theorem State.writeBytes_keys (s : State) (a : Nat) (bs : List Byte) : (s.writeBytes a bs).keys = s.keys := by
  induction bs generalizing s a with
  | nil => rfl
  | cons b bs ih => exact ih _ _
@[simp] theorem State.writeBytes_disp (s : State) (a : Nat) (bs : List Byte) : (s.writeBytes a bs).disp = s.disp := by
  induction bs generalizing s a with
  | nil => rfl
  | cons b bs ih => exact ih _ _
@[simp] theorem State.writeBytes_awaiting (s : State) (a : Nat) (bs : List Byte) : (s.writeBytes a bs).awaiting = s.awaiting := by
  induction bs generalizing s a with
  | nil => rfl
  | cons b bs ih => exact ih _ _
@[simp] theorem State.writeBytes_awaitReg (s : State) (a : Nat) (bs : List Byte) : (s.writeBytes a bs).awaitReg = s.awaitReg := by
  induction bs generalizing s a with
  | nil => rfl
  | cons b bs ih => exact ih _ _
@[simp] theorem State.writeBytes_faultCode (s : State) (a : Nat) (bs : List Byte) : (s.writeBytes a bs).faultCode = s.faultCode := by
  induction bs generalizing s a with
  | nil => rfl
  | cons b bs ih => exact ih _ _
@[simp] theorem State.writeBytes_faultPc (s : State) (a : Nat) (bs : List Byte) : (s.writeBytes a bs).faultPc = s.faultPc := by
  induction bs generalizing s a with
  | nil => rfl
  | cons b bs ih => exact ih _ _
@[simp] theorem State.writeBytes_faultWord (s : State) (a : Nat) (bs : List Byte) : (s.writeBytes a bs).faultWord = s.faultWord := by
  induction bs generalizing s a with
  | nil => rfl
  | cons b bs ih => exact ih _ _
@[simp] theorem State.writeBytes_draws (s : State) (a : Nat) (bs : List Byte) : (s.writeBytes a bs).draws = s.draws := by
  induction bs generalizing s a with
  | nil => rfl
  | cons b bs ih => exact ih _ _
@[simp] theorem State.writeBytes_cfg (s : State) (a : Nat) (bs : List Byte) : (s.writeBytes a bs).cfg = s.cfg := by
  induction bs generalizing s a with
  | nil => rfl
  | cons b bs ih => exact ih _ _
@[simp] theorem State.writeBytes_pending (s : State) (a : Nat) (bs : List Byte) : (s.writeBytes a bs).pending = s.pending := by
  induction bs generalizing s a with
  | nil => rfl
  | cons b bs ih => exact ih _ _

/-! ### Reading a register or a byte through an update that does not write it -/

@[simp] theorem State.readByte_setV (s : State) (r : RegIx) (b : Byte) (c : Nat) : (s.setV r b).readByte c = s.readByte c := rfl
@[simp] theorem State.readByte_setVF (s : State) (b : Byte) (c : Nat) : (s.setVF b).readByte c = s.readByte c := rfl
@[simp] theorem State.readV_setI (s : State) (w : Word) (q : RegIx) : (s.setI w).readV q = s.readV q := rfl
@[simp] theorem State.readByte_setI (s : State) (w : Word) (c : Nat) : (s.setI w).readByte c = s.readByte c := rfl
@[simp] theorem State.readV_setPc (s : State) (w : Word) (q : RegIx) : (s.setPc w).readV q = s.readV q := rfl
@[simp] theorem State.readByte_setPc (s : State) (w : Word) (c : Nat) : (s.setPc w).readByte c = s.readByte c := rfl
@[simp] theorem State.readV_advance (s : State) (q : RegIx) : (s.advance).readV q = s.readV q := rfl
@[simp] theorem State.readByte_advance (s : State) (c : Nat) : (s.advance).readByte c = s.readByte c := rfl
@[simp] theorem State.readV_skip (s : State) (q : RegIx) : (s.skip).readV q = s.readV q := rfl
@[simp] theorem State.readByte_skip (s : State) (c : Nat) : (s.skip).readByte c = s.readByte c := rfl
@[simp] theorem State.readV_setDT (s : State) (b : Byte) (q : RegIx) : (s.setDT b).readV q = s.readV q := rfl
@[simp] theorem State.readByte_setDT (s : State) (b : Byte) (c : Nat) : (s.setDT b).readByte c = s.readByte c := rfl
@[simp] theorem State.readV_setST (s : State) (b : Byte) (q : RegIx) : (s.setST b).readV q = s.readV q := rfl
@[simp] theorem State.readByte_setST (s : State) (b : Byte) (c : Nat) : (s.setST b).readByte c = s.readByte c := rfl
@[simp] theorem State.readV_writeByte (s : State) (a : Nat) (b : Byte) (q : RegIx) : (s.writeByte a b).readV q = s.readV q := rfl
@[simp] theorem State.readV_writeKey (s : State) (k : Key) (p : Bool) (q : RegIx) : (s.writeKey k p).readV q = s.readV q := rfl
@[simp] theorem State.readByte_writeKey (s : State) (k : Key) (p : Bool) (c : Nat) : (s.writeKey k p).readByte c = s.readByte c := rfl
@[simp] theorem State.readV_startWait (s : State) (x : RegIx) (q : RegIx) : (s.startWait x).readV q = s.readV q := rfl
@[simp] theorem State.readByte_startWait (s : State) (x : RegIx) (c : Nat) : (s.startWait x).readByte c = s.readByte c := rfl
@[simp] theorem State.readV_endWait (s : State) (q : RegIx) : (s.endWait).readV q = s.readV q := rfl
@[simp] theorem State.readByte_endWait (s : State) (c : Nat) : (s.endWait).readByte c = s.readByte c := rfl
@[simp] theorem State.readV_setDisp (s : State) (d : Display) (q : RegIx) : (s.setDisp d).readV q = s.readV q := rfl
@[simp] theorem State.readByte_setDisp (s : State) (d : Display) (c : Nat) : (s.setDisp d).readByte c = s.readByte c := rfl
@[simp] theorem State.readV_clearDisplay (s : State) (q : RegIx) : (s.clearDisplay).readV q = s.readV q := rfl
@[simp] theorem State.readByte_clearDisplay (s : State) (c : Nat) : (s.clearDisplay).readByte c = s.readByte c := rfl
@[simp] theorem State.readV_countDraw (s : State) (q : RegIx) : (s.countDraw).readV q = s.readV q := rfl
@[simp] theorem State.readByte_countDraw (s : State) (c : Nat) : (s.countDraw).readByte c = s.readByte c := rfl
@[simp] theorem State.readV_latch (s : State) (e : CoreError) (a w : Word) (q : RegIx) : (s.latch e a w).readV q = s.readV q := rfl
@[simp] theorem State.readByte_latch (s : State) (e : CoreError) (a w : Word) (c : Nat) : (s.latch e a w).readByte c = s.readByte c := rfl
@[simp] theorem State.readV_clearFault (s : State) (q : RegIx) : (s.clearFault).readV q = s.readV q := rfl
@[simp] theorem State.readByte_clearFault (s : State) (c : Nat) : (s.clearFault).readByte c = s.readByte c := rfl
@[simp] theorem State.readV_takeOp (s : State) (q : RegIx) : (s.takeOp).readV q = s.readV q := rfl
@[simp] theorem State.readByte_takeOp (s : State) (c : Nat) : (s.takeOp).readByte c = s.readByte c := rfl
@[simp] theorem State.readV_skipIf (s : State) (c : Bool) (q : RegIx) : (s.skipIf c).readV q = s.readV q := by cases c <;> rfl
@[simp] theorem State.readByte_skipIf (s : State) (b : Bool) (c : Nat) : (s.skipIf b).readByte c = s.readByte c := by cases b <;> rfl
@[simp] theorem State.readV_writeBytes (s : State) (a : Nat) (bs : List Byte) (q : RegIx) : (s.writeBytes a bs).readV q = s.readV q := by
  simp [State.readV]
@[simp] theorem State.readByte_setVs (s : State) (k : Nat) (bs : List Byte) (c : Nat) : (s.setVs k bs).readByte c = s.readByte c := by
  simp [State.readByte]

end Sys2Proof.Machine
end

