-- ==== Sys2Proof/Laws/Memory.lean ====
section
/-! SUPPORT. The laws of memory: a read after a write, and that every memory operation keeps the canonical form. -/

namespace Sys2Proof.Machine

/-! ### The list of cells -/

theorem memFind_below {cfg : Config} {lo a : Nat} {m : Memory} (h : memWfFrom cfg lo m = true) (ha : a < lo) :
    memFind m a = none := by
  induction m generalizing lo with
  | nil => rfl
  | cons c m ih =>
    obtain ⟨k, b⟩ := c
    simp only [memWfFrom, Bool.and_eq_true, decide_eq_true_eq] at h
    have hk : k ≠ a := by omega
    simp [memFind, hk, ih h.2 (by omega)]

theorem memWfFrom_mono {cfg : Config} {lo lo' : Nat} {m : Memory} (h : memWfFrom cfg lo m = true) (hl : lo' ≤ lo) :
    memWfFrom cfg lo' m = true := by
  cases m with
  | nil => rfl
  | cons c m =>
    obtain ⟨k, b⟩ := c
    simp only [memWfFrom, Bool.and_eq_true, decide_eq_true_eq] at h ⊢
    exact ⟨⟨⟨by omega, h.1.1.2⟩, h.1.2⟩, h.2⟩

/-- What a cell reads as: its listed value, or else its reset value. -/
def cellValue (cfg : Config) (m : Memory) (a : Nat) : Byte := (memFind m a).getD (initialByte cfg a)

theorem State.readByte_eq (s : State) (a : Nat) : s.readByte a = cellValue s.cfg s.mem a := rfl

/-- A cell that is not written reads as before, whatever the form of the list. -/
theorem cellValue_put_ne {cfg : Config} {a c : Nat} {b : Byte} {m : Memory} (hc : c ≠ a) :
    cellValue cfg (memPut cfg m a b) c = cellValue cfg m c := by
  unfold cellValue
  induction m with
  | nil => rw [memPut]; split <;> simp [memFind, hc.symm]
  | cons p m ih =>
    obtain ⟨k, v⟩ := p
    rw [memPut]
    split_ifs with h1 h2 h3 h4
    · rfl
    · simp [memFind, hc.symm]
    · simp [memFind, ← h3, hc.symm]
    · simp [memFind, ← h3, hc.symm]
    · by_cases hk : k = c
      · simp [memFind, hk]
      · simpa [memFind, hk] using ih

/-- The cell written reads as the byte written, in a canonical list. -/
theorem cellValue_put_self {cfg : Config} {lo a : Nat} {b : Byte} {m : Memory} (h : memWfFrom cfg lo m = true) :
    cellValue cfg (memPut cfg m a b) a = b := by
  unfold cellValue
  induction m generalizing lo with
  | nil => rw [memPut]; split <;> simp [memFind, *]
  | cons p m ih =>
    obtain ⟨k, v⟩ := p
    simp only [memWfFrom, Bool.and_eq_true, decide_eq_true_eq] at h
    have hbelow : a < k + 1 → memFind m a = none := memFind_below h.2
    rw [memPut]
    split_ifs with h1 h2 h3 h4
    · have hk : k ≠ a := by omega
      simp [memFind, hk, hbelow (by omega), h2]
    · simp [memFind]
    · simp [hbelow (by omega), h4]
    · simp [memFind]
    · have hk : k ≠ a := fun e => h3 e.symm
      simpa [memFind, hk] using ih h.2

theorem cellValue_put {cfg : Config} {lo a c : Nat} {b : Byte} {m : Memory} (h : memWfFrom cfg lo m = true) :
    cellValue cfg (memPut cfg m a b) c = if c = a then b else cellValue cfg m c := by
  split
  · next hc => rw [hc, cellValue_put_self h]
  · next hc => exact cellValue_put_ne hc

theorem memPut_wf {cfg : Config} {lo a : Nat} {b : Byte} {m : Memory} (h : memWfFrom cfg lo m = true) (hlo : lo ≤ a)
    (ha : a < memSize) : memWfFrom cfg lo (memPut cfg m a b) = true := by
  induction m generalizing lo with
  | nil =>
    by_cases hb : b = initialByte cfg a
    · simp [memPut, hb, memWfFrom]
    · have hb' : (b != initialByte cfg a) = true := by simpa using hb
      simp only [memPut, hb, if_false, memWfFrom, hb', Bool.and_true, Bool.and_eq_true, decide_eq_true_eq]
      exact ⟨hlo, ha⟩
  | cons p m ih =>
    obtain ⟨k, v⟩ := p
    have h0 := h
    simp only [memWfFrom, Bool.and_eq_true, decide_eq_true_eq] at h
    obtain ⟨⟨⟨hk1, hk2⟩, hv⟩, hm⟩ := h
    by_cases h1 : a < k
    · by_cases hb : b = initialByte cfg a
      · simpa [memPut, h1, hb] using h0
      · have hb' : (b != initialByte cfg a) = true := by simpa using hb
        simp only [memPut, h1, hb, if_true, if_false, memWfFrom, hb', hv, hm, Bool.and_true, Bool.and_eq_true,
          decide_eq_true_eq]
        exact ⟨⟨hlo, ha⟩, by omega, hk2⟩
    · by_cases h2 : a = k
      · subst h2
        by_cases hb : b = initialByte cfg a
        · simpa [memPut, hb] using memWfFrom_mono hm (by omega)
        · have hb' : (b != initialByte cfg a) = true := by simpa using hb
          simp only [memPut, hb, lt_irrefl, if_false, if_true, memWfFrom, hb', hm, Bool.and_true, Bool.and_eq_true,
            decide_eq_true_eq]
          exact ⟨hlo, ha⟩
      · have := ih hm (by omega)
        simp only [memPut, h1, h2, if_false, memWfFrom, hv, this, Bool.and_true, Bool.and_eq_true, decide_eq_true_eq]
        exact ⟨hk1, hk2⟩

/-! ### Reading a byte after each update -/

theorem State.readByte_congr {s t : State} (hm : t.mem = s.mem) (hc : t.cfg = s.cfg) (a : Nat) :
    t.readByte a = s.readByte a := by
  simp [State.readByte, hm, hc]

theorem State.readByte_writeByte {s : State} (h : Memory.wf s.cfg s.mem = true) (a c : Nat) (b : Byte) :
    (s.writeByte a b).readByte c = if c = a then b else s.readByte c := by
  simpa [State.readByte_eq] using cellValue_put (a := a) (c := c) (b := b) h

theorem State.readByte_writeByte_ne (s : State) {a c : Nat} (b : Byte) (hc : c ≠ a) :
    (s.writeByte a b).readByte c = s.readByte c := by
  simpa [State.readByte_eq] using cellValue_put_ne (cfg := s.cfg) (m := s.mem) (b := b) hc

/-- A block write leaves every byte outside the block, in every state. -/
theorem State.readByte_writeBytes_outside (s : State) {a c : Nat} {bs : List Byte} (hc : c < a ∨ a + bs.length ≤ c) :
    (s.writeBytes a bs).readByte c = s.readByte c := by
  induction bs generalizing s a with
  | nil => rfl
  | cons b bs ih =>
    simp only [List.length_cons] at hc
    rw [State.writeBytes, ih _ (by omega), State.readByte_writeByte_ne _ _ (by omega)]

theorem State.writeByte_wf {s : State} (h : Memory.wf s.cfg s.mem = true) {a : Nat} (ha : a < memSize) (b : Byte) :
    Memory.wf (s.writeByte a b).cfg (s.writeByte a b).mem = true :=
  memPut_wf h (Nat.zero_le _) ha

/-- A block write changes memory alone. -/
theorem State.writeBytes_eq (s : State) (a : Nat) (bs : List Byte) :
    s.writeBytes a bs = { s with mem := (s.writeBytes a bs).mem } := by
  induction bs generalizing s a with
  | nil => rfl
  | cons b bs ih => exact ih (s.writeByte a b) (a + 1)

theorem State.writeBytes_wf {s : State} (h : Memory.wf s.cfg s.mem = true) {a : Nat} {bs : List Byte}
    (ha : a + bs.length ≤ memSize) : Memory.wf (s.writeBytes a bs).cfg (s.writeBytes a bs).mem = true := by
  induction bs generalizing s a with
  | nil => exact h
  | cons b bs ih =>
    simp only [List.length_cons] at ha
    exact ih (State.writeByte_wf h (by omega) b) (by omega)

/-- A read after a block write: the block's byte inside it, the old byte outside it. -/
theorem State.readByte_writeBytes {s : State} (h : Memory.wf s.cfg s.mem = true) {a : Nat} {bs : List Byte}
    (ha : a + bs.length ≤ memSize) (c : Nat) :
    (s.writeBytes a bs).readByte c =
      if hc : a ≤ c ∧ c - a < bs.length then bs[c - a] else s.readByte c := by
  induction bs generalizing s a with
  | nil => simp [State.writeBytes]
  | cons b bs ih =>
    simp only [List.length_cons] at ha
    have hw := State.writeByte_wf h (a := a) (by omega) b
    have step := ih hw (a := a + 1) (by omega)
    simp only [State.writeBytes, step, State.readByte_writeByte h]
    by_cases h1 : c = a
    · subst h1; simp
    · by_cases h2 : a + 1 ≤ c ∧ c - (a + 1) < bs.length
      · have h3 : a ≤ c ∧ c - a < (b :: bs).length := by simp only [List.length_cons]; omega
        rw [dif_pos h2, dif_pos h3, List.getElem_cons, dif_neg (by omega)]
        simp only [Nat.sub_sub]
      · have h3 : ¬(a ≤ c ∧ c - a < (b :: bs).length) := by simp only [List.length_cons]; omega
        rw [dif_neg h2, dif_neg h3, if_neg h1]

theorem State.readByte_writeBytes_inside {s : State} (h : Memory.wf s.cfg s.mem = true) {a : Nat} {bs : List Byte}
    (ha : a + bs.length ≤ memSize) {k : Nat} (hk : k < bs.length) :
    (s.writeBytes a bs).readByte (a + k) = bs[k] := by
  rw [State.readByte_writeBytes h ha, dif_pos ⟨by omega, by omega⟩]
  simp

@[simp] theorem State.length_readBytes (s : State) (a n : Nat) : (s.readBytes a n).length = n := by
  induction n generalizing a with
  | zero => rfl
  | succ n ih => simp [State.readBytes, ih]

@[simp] theorem State.getElem_readBytes (s : State) (a n k : Nat) (hk : k < (s.readBytes a n).length) :
    (s.readBytes a n)[k] = s.readByte (a + k) := by
  induction n generalizing a k with
  | zero => simp [State.readBytes] at hk
  | succ n ih =>
    cases k with
    | zero => rfl
    | succ k =>
      have := ih (a + 1) k (by simpa [State.readBytes] using hk)
      simp only [State.readBytes, List.getElem_cons_succ, this]
      congr 1
      omega

/-- A listed cell of a canonical memory is a real one and does not hold its reset value. -/
theorem memFind_some_of_wf {cfg : Config} {lo a : Nat} {b : Byte} {m : Memory} (h : memWfFrom cfg lo m = true)
    (hf : memFind m a = some b) : lo ≤ a ∧ a < memSize ∧ b ≠ initialByte cfg a := by
  induction m generalizing lo with
  | nil => simp [memFind] at hf
  | cons p m ih =>
    obtain ⟨k, v⟩ := p
    simp only [memWfFrom, Bool.and_eq_true, decide_eq_true_eq, bne_iff_ne] at h
    by_cases hk : k = a
    · subst hk
      simp only [memFind, if_true, Option.some.injEq] at hf
      subst hf
      exact ⟨h.1.1.1, h.1.1.2, h.1.2⟩
    · simp only [memFind, hk, if_false] at hf
      have := ih h.2 hf
      exact ⟨by omega, this.2⟩

end Sys2Proof.Machine
end

