-- ==== Sys2Proof/Laws/Registers.lean ====
section
/-! SUPPORT. The laws of the register file, the keys, the timers and the call stack: what a read gives after a write, and all that a
push or a pop can do. -/

namespace Sys2Proof.Machine

/-! ### V0 to VF -/

theorem State.readV_congr {s t : State} (h : t.v = s.v) (r : RegIx) : t.readV r = s.readV r := by
  simp [State.readV, h]

@[simp] theorem State.readV_setV (s : State) (r q : RegIx) (b : Byte) :
    (s.setV r b).readV q = if q = r then b else s.readV q := by
  simp [State.readV, Vector.getElem_set, BitVec.toNat_inj, eq_comm]

@[simp] theorem State.readV_setVF (s : State) (q : RegIx) (b : Byte) :
    (s.setVF b).readV q = if q = vfIx then b else s.readV q := State.readV_setV s vfIx q b

/-- A block of registers after `setVs`: the bytes from V[k] on, the rest as before. -/
theorem State.readV_setVs (s : State) (k : Nat) (bs : List Byte) (hk : k + bs.length ≤ 16) (r : RegIx) :
    (s.setVs k bs).readV r =
      if h : k ≤ r.toNat ∧ r.toNat - k < bs.length then bs[r.toNat - k] else s.readV r := by
  induction bs generalizing s k with
  | nil => simp [State.setVs]
  | cons b bs ih =>
    simp only [List.length_cons] at hk
    have hr : (r = BitVec.ofNat 4 k) ↔ r.toNat = k := by
      rw [← BitVec.toNat_inj, BitVec.toNat_ofNat, Nat.mod_eq_of_lt (by omega)]
    simp only [State.setVs, ih _ (k + 1) (by omega), State.readV_setV, hr]
    by_cases h1 : r.toNat = k
    · subst h1; simp
    · by_cases h2 : k + 1 ≤ r.toNat ∧ r.toNat - (k + 1) < bs.length
      · have h3 : k ≤ r.toNat ∧ r.toNat - k < (b :: bs).length := by simp only [List.length_cons]; omega
        rw [dif_pos h2, dif_pos h3, List.getElem_cons, dif_neg (by omega)]
        simp only [Nat.sub_sub]
      · have h3 : ¬(k ≤ r.toNat ∧ r.toNat - k < (b :: bs).length) := by simp only [List.length_cons]; omega
        rw [dif_neg h2, dif_neg h3, if_neg h1]

/-- A block of register writes changes the registers alone. -/
theorem State.setVs_eq (s : State) (k : Nat) (bs : List Byte) : s.setVs k bs = { s with v := (s.setVs k bs).v } := by
  induction bs generalizing s k with
  | nil => rfl
  | cons b bs ih => exact ih (s.setV (BitVec.ofNat 4 k) b) (k + 1)

@[simp] theorem State.length_readVs (s : State) (x : RegIx) : (s.readVs x).length = x.toNat + 1 := by
  simp [State.readVs]

@[simp] theorem State.getElem_readVs (s : State) (x : RegIx) (k : Nat) (h : k < (s.readVs x).length) :
    (s.readVs x)[k] = s.readV (BitVec.ofNat 4 k) := by
  simp [State.readVs]

/-! ### Keys and timers -/

@[simp] theorem State.keyPressed_writeKey (s : State) (k j : Key) (p : Bool) :
    (s.writeKey k p).keyPressed j = if j = k then p else s.keyPressed j := by
  simp [State.keyPressed, Vector.getElem_set, BitVec.toNat_inj, eq_comm]

theorem State.keyPressed_congr {s t : State} (h : t.keys = s.keys) (k : Key) : t.keyPressed k = s.keyPressed k := by
  simp [State.keyPressed, h]

/-- A tick subtracts 1 and stops at 0. -/
theorem toNat_tickByte (b : Byte) : (tickByte b).toNat = b.toNat - 1 := by
  unfold tickByte
  split
  · rw [BitVec.toNat_sub]; have := b.isLt; simp; omega
  · omega

/-! ### Call stack -/

/-- All that a push can do. -/
theorem State.push_cases (s : State) (w : Word) :
    (s.sp.val = 16 ∧ s.push w = none) ∨
      ∃ h : s.sp.val < 16, s.push w = some { s with stack := s.stack.set s.sp.val w h, sp := ⟨s.sp.val + 1, by omega⟩ } := by
  by_cases h : s.sp.val < 16
  · exact .inr ⟨h, by simp [State.push, h]⟩
  · exact .inl ⟨by have := s.sp.isLt; omega, by simp [State.push, h]⟩

/-- All that a pop can do. -/
theorem State.pop_cases (s : State) :
    (s.sp.val = 0 ∧ s.pop = none) ∨
      ∃ h : 0 < s.sp.val, s.pop =
        some (s.stack[s.sp.val - 1]'(by have := s.sp.isLt; omega), { s with sp := ⟨s.sp.val - 1, by omega⟩ }) := by
  by_cases h : 0 < s.sp.val
  · exact .inr ⟨h, by simp [State.pop, h]⟩
  · exact .inl ⟨by omega, by simp [State.pop, h]⟩

/-! ### The block bounds check -/

theorem blockInBounds_iff (base : Word) (n : Nat) :
    blockInBounds base n = true ↔ ∀ k < n, base.toNat + k < memSize := by
  simp only [blockInBounds, decide_eq_true_eq]
  constructor
  · rintro (h | h) k hk <;> omega
  · intro h
    rcases Nat.eq_zero_or_pos n with h0 | h0
    · exact .inl h0
    · have := h (n - 1) (by omega); exact .inr (by omega)

theorem blockInBounds_le {base : Word} {n : Nat} (h : blockInBounds base n = true) (hn : 0 < n) :
    base.toNat + n ≤ memSize := by
  simp only [blockInBounds, decide_eq_true_eq] at h
  omega

end Sys2Proof.Machine
end

