-- ==== Sys2Proof/Laws/Display.lean ====
section
/-! SUPPORT. The laws of the display: what a plot changes, that a sprite plots no pixel twice, and so what a whole sprite does to each
pixel. -/

namespace Sys2Proof.Machine

@[simp] theorem pixel_blankDisplay (px : Fin 64) (py : Fin 32) : pixel blankDisplay px py = false := by
  simp [pixel, blankDisplay]

/-- Two displays that show the same pixels are the same. -/
theorem display_ext {d e : Display} (h : ∀ px py, pixel d px py = pixel e px py) : d = e := by
  apply Vector.ext
  intro i hi
  apply Vector.ext
  intro j hj
  exact h ⟨i, hi⟩ ⟨j, hj⟩

/-- One plot inverts its pixel and leaves every other pixel alone. -/
theorem pixel_plotXor (d : Display) (px qx : Fin 64) (py qy : Fin 32) :
    pixel (plotXor d px py).1 qx qy = if qx = px ∧ qy = py then !pixel d px py else pixel d qx qy := by
  simp only [pixel, plotXor, Fin.getElem_fin, Vector.getElem_set, Fin.ext_iff]
  by_cases h1 : qx.val = px.val
  · by_cases h2 : qy.val = py.val
    · simp [h1, h2]
    · have h2' : ¬ py.val = qy.val := fun e => h2 e.symm
      simp [h1, h2, h2']
  · have h1' : ¬ px.val = qx.val := fun e => h1 e.symm
    simp [h1, h1']

/-- A list of plots inverts exactly its pixels, and reports a collision exactly when one of them was on. -/
theorem plotAll_spec (ps : List (Fin 64 × Fin 32)) (hn : ps.Nodup) (d : Display) :
    (∀ qx qy, pixel (plotAll ps d).1 qx qy = (pixel d qx qy != decide ((qx, qy) ∈ ps))) ∧
      ((plotAll ps d).2 = true ↔ ∃ p ∈ ps, pixel d p.1 p.2 = true) := by
  induction ps generalizing d with
  | nil => simp [plotAll]
  | cons p ps ih =>
    obtain ⟨hp, hn⟩ := List.nodup_cons.mp hn
    obtain ⟨ih1, ih2⟩ := ih hn (plotXor d p.1 p.2).1
    refine ⟨fun qx qy => ?_, ?_⟩
    · simp only [plotAll, ih1, pixel_plotXor]
      by_cases h : qx = p.1 ∧ qy = p.2
      · obtain ⟨rfl, rfl⟩ := h
        simp [hp]
      · have h' : ¬ (qx, qy) = p := fun e => h ⟨congrArg Prod.fst e, congrArg Prod.snd e⟩
        simp [h, h']
    · simp only [plotAll, Bool.or_eq_true, ih2, List.mem_cons, exists_eq_or_imp]
      have hother : ∀ q ∈ ps, pixel (plotXor d p.1 p.2).1 q.1 q.2 = pixel d q.1 q.2 := by
        intro q hq
        rw [pixel_plotXor, if_neg]
        rintro ⟨h1, h2⟩
        exact hp ((Prod.ext h1 h2 : q = p) ▸ hq)
      constructor
      · rintro (h | ⟨q, hq, h⟩)
        · exact .inl h
        · exact .inr ⟨q, hq, (hother q hq) ▸ h⟩
      · rintro (h | ⟨q, hq, h⟩)
        · exact .inl h
        · exact .inr ⟨q, hq, (hother q hq).symm ▸ h⟩

/-! ### No pixel is plotted twice by one sprite -/

/-- Where a placed pixel lands, in both edge modes. -/
theorem placePixel_some {edge : SpriteEdge} {px py : Nat} {q : Fin 64 × Fin 32} (h : placePixel edge px py = some q) :
    q.1.val = px % 64 ∧ q.2.val = py % 32 := by
  cases edge with
  | wrap =>
    simp only [placePixel, Option.some.injEq] at h
    subst h
    simp [Fin.ofNat]
  | clip =>
    simp only [placePixel] at h
    split at h
    · rename_i hb
      simp only [Option.some.injEq] at h
      subst h
      exact ⟨(Nat.mod_eq_of_lt hb.1).symm, (Nat.mod_eq_of_lt hb.2).symm⟩
    · simp at h

theorem mem_rowPixels {edge : SpriteEdge} {x0 py : Nat} {b : Byte} {q : Fin 64 × Fin 32} :
    q ∈ rowPixels edge x0 py b ↔ ∃ c < 8, b.getLsbD (7 - c) = true ∧ placePixel edge (x0 + c) py = some q := by
  simp [rowPixels, List.mem_filterMap]

theorem rowPixels_nodup (edge : SpriteEdge) (x0 py : Nat) (b : Byte) : (rowPixels edge x0 py b).Nodup := by
  unfold rowPixels List.Nodup
  rw [List.pairwise_filterMap]
  refine List.nodup_range.imp_of_mem ?_
  intro c c' hc hc' hne q hq q' hq' heq
  simp only [List.mem_range] at hc hc'
  simp only [Option.ite_none_right_eq_some] at hq hq'
  have h1 := (placePixel_some hq.2).1
  have h2 := (placePixel_some hq'.2).1
  rw [heq] at h1
  omega

theorem mem_spritePixels_row {edge : SpriteEdge} {x0 py : Nat} {bs : List Byte} {q : Fin 64 × Fin 32}
    (h : q ∈ spritePixels edge x0 py bs) : ∃ r < bs.length, q.2.val = (py + r) % 32 := by
  induction bs generalizing py with
  | nil => simp [spritePixels] at h
  | cons b bs ih =>
    rcases List.mem_append.mp h with h | h
    · obtain ⟨c, -, -, hp⟩ := mem_rowPixels.mp h
      exact ⟨0, by simp, (placePixel_some hp).2⟩
    · obtain ⟨r, hr, hq⟩ := ih h
      exact ⟨r + 1, by simpa using hr, by rw [hq]; congr 1; omega⟩

/-- A sprite of at most 32 rows plots each pixel at most once (R231: a sprite is at most 8 wide and 15 tall). -/
theorem spritePixels_nodup (edge : SpriteEdge) (x0 py : Nat) (bs : List Byte) (h : bs.length ≤ 32) :
    (spritePixels edge x0 py bs).Nodup := by
  induction bs generalizing py with
  | nil => simp [spritePixels]
  | cons b bs ih =>
    simp only [List.length_cons] at h
    refine List.nodup_append.mpr ⟨rowPixels_nodup _ _ _ _, ih _ (by omega), ?_⟩
    rintro q hq q' hq' rfl
    obtain ⟨c, -, -, hp⟩ := mem_rowPixels.mp hq
    obtain ⟨r, hr, hrow⟩ := mem_spritePixels_row hq'
    have := (placePixel_some hp).2
    omega

theorem State.drawnPixels_nodup (s : State) (x y : RegIx) (n : Nibble) : (s.drawnPixels x y n).Nodup :=
  spritePixels_nodup _ _ _ _ (by simp only [State.length_readBytes]; have := n.isLt; omega)

/-- Which pixels a sprite plots: those placed from a set bit (R231). -/
theorem mem_spritePixels {edge : SpriteEdge} {x0 py : Nat} {bs : List Byte} {q : Fin 64 × Fin 32} :
    q ∈ spritePixels edge x0 py bs ↔
      ∃ (r : Nat) (hr : r < bs.length), ∃ c < 8, bs[r].getLsbD (7 - c) = true ∧
        placePixel edge (x0 + c) (py + r) = some q := by
  induction bs generalizing py with
  | nil => simp [spritePixels]
  | cons b bs ih =>
    rw [spritePixels, List.mem_append, mem_rowPixels, ih]
    constructor
    · rintro (⟨c, hc, hb, hp⟩ | ⟨r, hr, c, hc, hb, hp⟩)
      · exact ⟨0, by simp, c, hc, hb, hp⟩
      · exact ⟨r + 1, by simpa using hr, c, hc, by simpa using hb, by rwa [← Nat.add_right_comm, Nat.add_assoc] at hp⟩
    · rintro ⟨r, hr, c, hc, hb, hp⟩
      cases r with
      | zero => exact .inl ⟨c, hc, by simpa using hb, hp⟩
      | succ r =>
        exact .inr ⟨r, by simpa using hr, c, hc, by simpa using hb, by rwa [Nat.add_right_comm, Nat.add_assoc]⟩

end Sys2Proof.Machine
end

