-- ==== Sys2Proof/Laws/Exec.lean ====
section
/-! SUPPORT. All that the meanings with a check can do: their effect where the check passes, the error where it does not. The other
meanings are one equation each, true by rfl. -/

namespace Sys2Proof.Machine

@[simp] theorem exec_sys (nnn : Addr12) (s : State) :
    exec (.sys nnn) s = .next (s.latch .unsupportedInstruction s.instrAddr (encode (.sys nnn))) := rfl

/-- 00EE: a pop, or `StackUnderflow` (R140). -/
theorem exec_ret_cases (s : State) :
    (∃ h : 0 < s.sp.val, exec .ret s =
        .next { s with
          pc := s.stack[s.sp.val - 1]'(by have := s.sp.isLt; omega), sp := ⟨s.sp.val - 1, by omega⟩ }) ∨
      (s.sp.val = 0 ∧ exec .ret s = .next (s.latch .stackUnderflow s.instrAddr (encode .ret))) := by
  rcases s.pop_cases with ⟨h, hp⟩ | ⟨h, hp⟩
  · exact .inr ⟨h, by simp [exec, execRet, hp, raiseError]⟩
  · exact .inl ⟨h, by simp [exec, execRet, hp, State.setPc]⟩

/-- 2nnn: a push and a jump, or `StackOverflow` (R143). -/
theorem exec_call_cases (nnn : Addr12) (s : State) :
    (∃ h : s.sp.val < 16, exec (.call nnn) s =
        .next { s with
          pc := zextAddr nnn, stack := s.stack.set s.sp.val s.pc h, sp := ⟨s.sp.val + 1, by omega⟩ }) ∨
      (s.sp.val = 16 ∧ exec (.call nnn) s = .next (s.latch .stackOverflow s.instrAddr (encode (.call nnn)))) := by
  rcases s.push_cases s.pc with ⟨h, hp⟩ | ⟨h, hp⟩
  · exact .inr ⟨h, by simp [exec, execCall, hp, raiseError]⟩
  · exact .inl ⟨h, by simp [exec, execCall, hp, State.setPc]⟩

/-- Fx33: a block write, or `OutOfBoundsMemoryAccess` (R203). -/
theorem exec_ldBVx_cases (x : RegIx) (s : State) :
    (s.I.toNat + 3 ≤ memSize ∧ exec (.ldBVx x) s = .next (s.writeBytes s.I.toNat (bcdDigits (s.readV x)))) ∨
      (memSize < s.I.toNat + 3 ∧
        exec (.ldBVx x) s = .next (s.latch .outOfBoundsMemoryAccess s.instrAddr (encode (.ldBVx x)))) := by
  by_cases h : s.I.toNat + 3 ≤ memSize
  · exact .inl ⟨h, by simp [exec, execLdBVx, blockInBounds, h]⟩
  · exact .inr ⟨by omega, by simp [exec, execLdBVx, blockInBounds, h, raiseError]⟩

/-- Fx55: a block write, or `OutOfBoundsMemoryAccess` (R204). -/
theorem exec_ldMemVx_cases (x : RegIx) (s : State) :
    (s.I.toNat + (x.toNat + 1) ≤ memSize ∧ exec (.ldMemVx x) s = .next (s.writeBytes s.I.toNat (s.readVs x))) ∨
      (memSize < s.I.toNat + (x.toNat + 1) ∧
        exec (.ldMemVx x) s = .next (s.latch .outOfBoundsMemoryAccess s.instrAddr (encode (.ldMemVx x)))) := by
  by_cases h : s.I.toNat + (x.toNat + 1) ≤ memSize
  · exact .inl ⟨h, by simp [exec, execLdMemVx, blockInBounds, h]⟩
  · exact .inr ⟨by omega, by simp [exec, execLdMemVx, blockInBounds, h, raiseError]⟩

/-- Fx65: a block of register writes, or `OutOfBoundsMemoryAccess` (R205). -/
theorem exec_ldVxMem_cases (x : RegIx) (s : State) :
    (s.I.toNat + (x.toNat + 1) ≤ memSize ∧
        exec (.ldVxMem x) s = .next (s.setVs 0 (s.readBytes s.I.toNat (x.toNat + 1)))) ∨
      (memSize < s.I.toNat + (x.toNat + 1) ∧
        exec (.ldVxMem x) s = .next (s.latch .outOfBoundsMemoryAccess s.instrAddr (encode (.ldVxMem x)))) := by
  by_cases h : s.I.toNat + (x.toNat + 1) ≤ memSize
  · exact .inl ⟨h, by simp [exec, execLdVxMem, blockInBounds, h]⟩
  · exact .inr ⟨by omega, by simp [exec, execLdVxMem, blockInBounds, h, raiseError]⟩

/-- Dxyn: the plots and the flag, or `OutOfBoundsMemoryAccess` (R231). -/
theorem exec_drw_cases (x y : RegIx) (n : Nibble) (s : State) :
    ((n.toNat = 0 ∨ s.I.toNat + n.toNat ≤ memSize) ∧ exec (.drw x y n) s =
        .next ((s.setDisp (plotAll (s.drawnPixels x y n) s.disp).1).setVF
          (flagByte (plotAll (s.drawnPixels x y n) s.disp).2))) ∨
      (0 < n.toNat ∧ memSize < s.I.toNat + n.toNat ∧
        exec (.drw x y n) s = .next (s.latch .outOfBoundsMemoryAccess s.instrAddr (encode (.drw x y n)))) := by
  by_cases h : n.toNat = 0 ∨ s.I.toNat + n.toNat ≤ memSize
  · refine .inl ⟨h, ?_⟩
    simp only [exec, execDrw, blockInBounds, h, decide_true, if_true]
  · refine .inr ⟨by omega, by omega, ?_⟩
    simp only [exec, execDrw, blockInBounds, h, decide_false, Bool.false_eq_true, if_false, raiseError]

/-- `key_index`: the low nibble of Vx, or nothing under `Refuse` where Vx is 16 or more (R235). -/
theorem keyIndex_cases (cfg : Config) (v : Byte) :
    ((v.toNat < 16 ∨ cfg.keyIndexHigh = .lowNibble) ∧ ∃ k : Key, keyIndex cfg v = some k ∧ k.toNat = v.toNat % 16) ∨
      (16 ≤ v.toNat ∧ cfg.keyIndexHigh = .refuse ∧ keyIndex cfg v = none) := by
  by_cases h : v.toNat < 16
  · exact .inl ⟨.inl h, v.setWidth 4, by simp [keyIndex, h], by simp⟩
  · cases hk : cfg.keyIndexHigh with
    | lowNibble =>
      refine .inl ⟨.inr rfl, (v &&& 0x0F#8).setWidth 4, by simp [keyIndex, h, hk], ?_⟩
      have hand : v.toNat % 16 &&& 15 = v.toNat % 16 % 16 := Nat.and_two_pow_sub_one_eq_mod _ 4
      simp [hand]
    | refuse => exact .inr ⟨by omega, rfl, by simp [keyIndex, h, hk]⟩

/-- Ex9E: a skip or none by the key's level, or the refusal of R235 (R233). -/
theorem exec_skp_cases (x : RegIx) (s : State) :
    ((((s.readV x).toNat < 16 ∨ s.cfg.keyIndexHigh = .lowNibble) ∧
        ∃ k : Key, k.toNat = (s.readV x).toNat % 16 ∧ exec (.skp x) s = .next (s.skipIf (s.keyPressed k)))) ∨
      (16 ≤ (s.readV x).toNat ∧ s.cfg.keyIndexHigh = .refuse ∧ exec (.skp x) s = .refused .keyIndexAbove15) := by
  rcases keyIndex_cases s.cfg (s.readV x) with ⟨h, k, hk, hv⟩ | ⟨h, hr, hk⟩
  · exact .inl ⟨h, k, hv, by simp [exec, execSkp, hk]⟩
  · exact .inr ⟨h, hr, by simp [exec, execSkp, hk]⟩

/-- ExA1: a skip or none by the key's level, or the refusal of R235 (R234). -/
theorem exec_sknp_cases (x : RegIx) (s : State) :
    ((((s.readV x).toNat < 16 ∨ s.cfg.keyIndexHigh = .lowNibble) ∧
        ∃ k : Key, k.toNat = (s.readV x).toNat % 16 ∧ exec (.sknp x) s = .next (s.skipIf (!s.keyPressed k)))) ∨
      (16 ≤ (s.readV x).toNat ∧ s.cfg.keyIndexHigh = .refuse ∧ exec (.sknp x) s = .refused .keyIndexAbove15) := by
  rcases keyIndex_cases s.cfg (s.readV x) with ⟨h, k, hk, hv⟩ | ⟨h, hr, hk⟩
  · exact .inl ⟨h, k, hv, by simp [exec, execSknp, hk]⟩
  · exact .inr ⟨h, hr, by simp [exec, execSknp, hk]⟩

end Sys2Proof.Machine
end

