-- ==== Sys2Proof/Laws/PerInstr.lean ====
section
/-! SUPPORT. Facts about every instruction as syntax, one lemma per constructor: the word of an instruction has the fixed bits that its
row of spec/opcode_table.json gives it (its mask and its match). -/

namespace Sys2Proof

/-- A row's `mask` and `match`, copied from spec/opcode_table.json. -/
def Laws.tableRow : Instr → Word × Word
  | .cls => (0xFFFF#16, 0x00E0#16)   -- 00E0
  | .ret => (0xFFFF#16, 0x00EE#16)   -- 00EE
  | .sys _ => (0xF000#16, 0x0000#16)   -- 0nnn
  | .jp _ => (0xF000#16, 0x1000#16)   -- 1nnn
  | .call _ => (0xF000#16, 0x2000#16)   -- 2nnn
  | .seImm _ _ => (0xF000#16, 0x3000#16)   -- 3xkk
  | .sneImm _ _ => (0xF000#16, 0x4000#16)   -- 4xkk
  | .seReg _ _ _ => (0xF000#16, 0x5000#16)   -- 5xy0
  | .ldImm _ _ => (0xF000#16, 0x6000#16)   -- 6xkk
  | .addImm _ _ => (0xF000#16, 0x7000#16)   -- 7xkk
  | .ldReg _ _ => (0xF00F#16, 0x8000#16)   -- 8xy0
  | .orReg _ _ => (0xF00F#16, 0x8001#16)   -- 8xy1
  | .andReg _ _ => (0xF00F#16, 0x8002#16)   -- 8xy2
  | .xorReg _ _ => (0xF00F#16, 0x8003#16)   -- 8xy3
  | .addReg _ _ => (0xF00F#16, 0x8004#16)   -- 8xy4
  | .subReg _ _ => (0xF00F#16, 0x8005#16)   -- 8xy5
  | .shr _ _ => (0xF00F#16, 0x8006#16)   -- 8xy6
  | .subnReg _ _ => (0xF00F#16, 0x8007#16)   -- 8xy7
  | .shl _ _ => (0xF00F#16, 0x800E#16)   -- 8xyE
  | .sneReg _ _ _ => (0xF000#16, 0x9000#16)   -- 9xy0
  | .ldI _ => (0xF000#16, 0xA000#16)   -- Annn
  | .jpV0 _ => (0xF000#16, 0xB000#16)   -- Bnnn
  | .rnd _ _ => (0xF000#16, 0xC000#16)   -- Cxkk
  | .drw _ _ _ => (0xF000#16, 0xD000#16)   -- Dxyn
  | .skp _ => (0xF0FF#16, 0xE09E#16)   -- Ex9E
  | .sknp _ => (0xF0FF#16, 0xE0A1#16)   -- ExA1
  | .ldVxDt _ => (0xF0FF#16, 0xF007#16)   -- Fx07
  | .ldVxK _ => (0xF0FF#16, 0xF00A#16)   -- Fx0A
  | .ldDtVx _ => (0xF0FF#16, 0xF015#16)   -- Fx15
  | .ldStVx _ => (0xF0FF#16, 0xF018#16)   -- Fx18
  | .addIVx _ => (0xF0FF#16, 0xF01E#16)   -- Fx1E
  | .ldFVx _ => (0xF0FF#16, 0xF029#16)   -- Fx29
  | .ldBVx _ => (0xF0FF#16, 0xF033#16)   -- Fx33
  | .ldMemVx _ => (0xF0FF#16, 0xF055#16)   -- Fx55
  | .ldVxMem _ => (0xF0FF#16, 0xF065#16)   -- Fx65

/-- The bits the rows of most classes fix are the field op (R92). -/
theorem Laws.and_F000 (w : Word) : w &&& 0xF000#16 = opField w ++ 0#12 := by
  apply BitVec.eq_of_getLsbD_eq; intro i hi
  simp only [opField, BitVec.getLsbD_and, BitVec.getLsbD_append, BitVec.getLsbD_extractLsb']
  interval_cases i <;> simp

/-- The bits the rows of class 8 fix are the fields op and n (R92). -/
theorem Laws.and_F00F (w : Word) : w &&& 0xF00F#16 = opField w ++ 0#8 ++ nField w := by
  apply BitVec.eq_of_getLsbD_eq; intro i hi
  simp only [opField, nField, BitVec.getLsbD_and, BitVec.getLsbD_append, BitVec.getLsbD_extractLsb']
  interval_cases i <;> simp

/-- The bits the rows of classes E and F fix are the fields op and kk (R92). -/
theorem Laws.and_F0FF (w : Word) : w &&& 0xF0FF#16 = opField w ++ 0#4 ++ kkField w := by
  apply BitVec.eq_of_getLsbD_eq; intro i hi
  simp only [opField, kkField, BitVec.getLsbD_and, BitVec.getLsbD_append, BitVec.getLsbD_extractLsb']
  interval_cases i <;> simp

/-- The word of an instruction has its row's fixed bits. -/
def Laws.OpcodeTable.Statement (i : Instr) : Prop := encode i &&& (Laws.tableRow i).1 = (Laws.tableRow i).2

theorem Laws.OpcodeTable.cls : Laws.OpcodeTable.Statement .cls := rfl
theorem Laws.OpcodeTable.ret : Laws.OpcodeTable.Statement .ret := rfl
theorem Laws.OpcodeTable.sys (nnn : Addr12) : Laws.OpcodeTable.Statement (.sys nnn) := by
  simp [Laws.OpcodeTable.Statement, encode, Laws.tableRow, Laws.and_F000]
theorem Laws.OpcodeTable.jp (nnn : Addr12) : Laws.OpcodeTable.Statement (.jp nnn) := by
  simp [Laws.OpcodeTable.Statement, encode, Laws.tableRow, Laws.and_F000]
theorem Laws.OpcodeTable.call (nnn : Addr12) : Laws.OpcodeTable.Statement (.call nnn) := by
  simp [Laws.OpcodeTable.Statement, encode, Laws.tableRow, Laws.and_F000]
theorem Laws.OpcodeTable.seImm (x : RegIx) (kk : Byte) : Laws.OpcodeTable.Statement (.seImm x kk) := by
  simp [Laws.OpcodeTable.Statement, encode, Laws.tableRow, Laws.and_F000]
theorem Laws.OpcodeTable.sneImm (x : RegIx) (kk : Byte) : Laws.OpcodeTable.Statement (.sneImm x kk) := by
  simp [Laws.OpcodeTable.Statement, encode, Laws.tableRow, Laws.and_F000]
theorem Laws.OpcodeTable.seReg (x y : RegIx) (n : Nibble) : Laws.OpcodeTable.Statement (.seReg x y n) := by
  simp [Laws.OpcodeTable.Statement, encode, Laws.tableRow, Laws.and_F000]
theorem Laws.OpcodeTable.ldImm (x : RegIx) (kk : Byte) : Laws.OpcodeTable.Statement (.ldImm x kk) := by
  simp [Laws.OpcodeTable.Statement, encode, Laws.tableRow, Laws.and_F000]
theorem Laws.OpcodeTable.addImm (x : RegIx) (kk : Byte) : Laws.OpcodeTable.Statement (.addImm x kk) := by
  simp [Laws.OpcodeTable.Statement, encode, Laws.tableRow, Laws.and_F000]
theorem Laws.OpcodeTable.ldReg (x y : RegIx) : Laws.OpcodeTable.Statement (.ldReg x y) := by
  simp [Laws.OpcodeTable.Statement, encode, Laws.tableRow, Laws.and_F00F]
theorem Laws.OpcodeTable.orReg (x y : RegIx) : Laws.OpcodeTable.Statement (.orReg x y) := by
  simp [Laws.OpcodeTable.Statement, encode, Laws.tableRow, Laws.and_F00F]
theorem Laws.OpcodeTable.andReg (x y : RegIx) : Laws.OpcodeTable.Statement (.andReg x y) := by
  simp [Laws.OpcodeTable.Statement, encode, Laws.tableRow, Laws.and_F00F]
theorem Laws.OpcodeTable.xorReg (x y : RegIx) : Laws.OpcodeTable.Statement (.xorReg x y) := by
  simp [Laws.OpcodeTable.Statement, encode, Laws.tableRow, Laws.and_F00F]
theorem Laws.OpcodeTable.addReg (x y : RegIx) : Laws.OpcodeTable.Statement (.addReg x y) := by
  simp [Laws.OpcodeTable.Statement, encode, Laws.tableRow, Laws.and_F00F]
theorem Laws.OpcodeTable.subReg (x y : RegIx) : Laws.OpcodeTable.Statement (.subReg x y) := by
  simp [Laws.OpcodeTable.Statement, encode, Laws.tableRow, Laws.and_F00F]
theorem Laws.OpcodeTable.shr (x y : RegIx) : Laws.OpcodeTable.Statement (.shr x y) := by
  simp [Laws.OpcodeTable.Statement, encode, Laws.tableRow, Laws.and_F00F]
theorem Laws.OpcodeTable.subnReg (x y : RegIx) : Laws.OpcodeTable.Statement (.subnReg x y) := by
  simp [Laws.OpcodeTable.Statement, encode, Laws.tableRow, Laws.and_F00F]
theorem Laws.OpcodeTable.shl (x y : RegIx) : Laws.OpcodeTable.Statement (.shl x y) := by
  simp [Laws.OpcodeTable.Statement, encode, Laws.tableRow, Laws.and_F00F]
theorem Laws.OpcodeTable.sneReg (x y : RegIx) (n : Nibble) : Laws.OpcodeTable.Statement (.sneReg x y n) := by
  simp [Laws.OpcodeTable.Statement, encode, Laws.tableRow, Laws.and_F000]
theorem Laws.OpcodeTable.ldI (nnn : Addr12) : Laws.OpcodeTable.Statement (.ldI nnn) := by
  simp [Laws.OpcodeTable.Statement, encode, Laws.tableRow, Laws.and_F000]
theorem Laws.OpcodeTable.jpV0 (nnn : Addr12) : Laws.OpcodeTable.Statement (.jpV0 nnn) := by
  simp [Laws.OpcodeTable.Statement, encode, Laws.tableRow, Laws.and_F000]
theorem Laws.OpcodeTable.rnd (x : RegIx) (kk : Byte) : Laws.OpcodeTable.Statement (.rnd x kk) := by
  simp [Laws.OpcodeTable.Statement, encode, Laws.tableRow, Laws.and_F000]
theorem Laws.OpcodeTable.drw (x y : RegIx) (n : Nibble) : Laws.OpcodeTable.Statement (.drw x y n) := by
  simp [Laws.OpcodeTable.Statement, encode, Laws.tableRow, Laws.and_F000]
theorem Laws.OpcodeTable.skp (x : RegIx) : Laws.OpcodeTable.Statement (.skp x) := by
  simp [Laws.OpcodeTable.Statement, encode, Laws.tableRow, Laws.and_F0FF]
theorem Laws.OpcodeTable.sknp (x : RegIx) : Laws.OpcodeTable.Statement (.sknp x) := by
  simp [Laws.OpcodeTable.Statement, encode, Laws.tableRow, Laws.and_F0FF]
theorem Laws.OpcodeTable.ldVxDt (x : RegIx) : Laws.OpcodeTable.Statement (.ldVxDt x) := by
  simp [Laws.OpcodeTable.Statement, encode, Laws.tableRow, Laws.and_F0FF]
theorem Laws.OpcodeTable.ldVxK (x : RegIx) : Laws.OpcodeTable.Statement (.ldVxK x) := by
  simp [Laws.OpcodeTable.Statement, encode, Laws.tableRow, Laws.and_F0FF]
theorem Laws.OpcodeTable.ldDtVx (x : RegIx) : Laws.OpcodeTable.Statement (.ldDtVx x) := by
  simp [Laws.OpcodeTable.Statement, encode, Laws.tableRow, Laws.and_F0FF]
theorem Laws.OpcodeTable.ldStVx (x : RegIx) : Laws.OpcodeTable.Statement (.ldStVx x) := by
  simp [Laws.OpcodeTable.Statement, encode, Laws.tableRow, Laws.and_F0FF]
theorem Laws.OpcodeTable.addIVx (x : RegIx) : Laws.OpcodeTable.Statement (.addIVx x) := by
  simp [Laws.OpcodeTable.Statement, encode, Laws.tableRow, Laws.and_F0FF]
theorem Laws.OpcodeTable.ldFVx (x : RegIx) : Laws.OpcodeTable.Statement (.ldFVx x) := by
  simp [Laws.OpcodeTable.Statement, encode, Laws.tableRow, Laws.and_F0FF]
theorem Laws.OpcodeTable.ldBVx (x : RegIx) : Laws.OpcodeTable.Statement (.ldBVx x) := by
  simp [Laws.OpcodeTable.Statement, encode, Laws.tableRow, Laws.and_F0FF]
theorem Laws.OpcodeTable.ldMemVx (x : RegIx) : Laws.OpcodeTable.Statement (.ldMemVx x) := by
  simp [Laws.OpcodeTable.Statement, encode, Laws.tableRow, Laws.and_F0FF]
theorem Laws.OpcodeTable.ldVxMem (x : RegIx) : Laws.OpcodeTable.Statement (.ldVxMem x) := by
  simp [Laws.OpcodeTable.Statement, encode, Laws.tableRow, Laws.and_F0FF]

end Sys2Proof
end

