-- ==== Sys2Proof/Laws/Step.lean ====
section
/-! SUPPORT. All that `execute_one` and a step can do, that the host's operations keep memory canonical, and that a word placed for
the fetch is the word the next step runs. -/

namespace Sys2Proof.Machine

/-- The fetch succeeds exactly where PC + 1 is a cell of memory (R123). -/
theorem State.fetch_cases (s : State) :
    (s.pc.toNat + 1 ≤ 4095 ∧ s.fetch = some (wordOfBytes (s.readByte s.pc.toNat) (s.readByte (s.pc.toNat + 1)))) ∨
      (4095 < s.pc.toNat + 1 ∧ s.fetch = none) := by
  by_cases h : s.pc.toNat + 1 ≤ 4095
  · exact .inl ⟨h, by simp [State.fetch, State.fetchable, h]⟩
  · exact .inr ⟨by omega, by simp [State.fetch, State.fetchable, h]⟩

/-- All that `execute_one` can do (R122, R271). -/
theorem executeOne_cases (s : State) :
    (s.faultCode ≠ 0#3 ∧ executeOne s = .next s) ∨
    (s.faultCode = 0#3 ∧ s.awaiting = true ∧ executeOne s = .next s) ∨
    (s.faultCode = 0#3 ∧ s.awaiting = false ∧ s.fetch = none ∧
      executeOne s = .next (s.latch .outOfBoundsFetch s.pc 0x0000#16)) ∨
    (s.faultCode = 0#3 ∧ s.awaiting = false ∧ ∃ w e, s.fetch = some w ∧ decode w = .error e ∧
      executeOne s = .next (s.latch .invalidOpcode s.pc w)) ∨
    (s.faultCode = 0#3 ∧ s.awaiting = false ∧ ∃ w i, s.fetch = some w ∧ decode w = .ok i ∧
      executeOne s = exec i s.advance) := by
  by_cases h1 : s.faultCode = 0#3
  · cases h2 : s.awaiting with
    | true => exact .inr (.inl ⟨h1, rfl, by simp [executeOne, h1, h2]⟩)
    | false =>
      cases h3 : s.fetch with
      | none => exact .inr (.inr (.inl ⟨h1, rfl, rfl, by simp [executeOne, h1, h2, h3]⟩))
      | some w =>
        cases h4 : decode w with
        | error e => exact .inr (.inr (.inr (.inl ⟨h1, rfl, w, e, rfl, h4, by simp [executeOne, h1, h2, h3, h4]⟩)))
        | ok i => exact .inr (.inr (.inr (.inr ⟨h1, rfl, w, i, rfl, h4, by simp [executeOne, h1, h2, h3, h4]⟩)))
  · exact .inl ⟨h1, by simp [executeOne, h1]⟩

/-- All that a step can do: the next operation, on the state without it (R50, R73). -/
theorem step_cases (s : State) :
    (s.nextOp = .executeOne ∧ step s = executeOne s.takeOp) ∨
    (s.nextOp = .tickTimers ∧ step s = .next (tickTimers s.takeOp)) ∨
    (∃ k p, s.nextOp = .setKey k p ∧ step s = .next (setKey k p s.takeOp)) ∨
    (∃ image, s.nextOp = .loadProgram image ∧ step s = .next (loadProgram image s.takeOp)) ∨
    (s.nextOp = .reset ∧ step s = .next (hostReset s.takeOp)) := by
  have hs : step s = perform s.nextOp s.takeOp := rfl
  cases h : s.nextOp with
  | executeOne => exact .inl ⟨rfl, by rw [hs, h]; rfl⟩
  | tickTimers => exact .inr (.inl ⟨rfl, by rw [hs, h]; rfl⟩)
  | setKey k p => exact .inr (.inr (.inl ⟨k, p, rfl, by rw [hs, h]; rfl⟩))
  | loadProgram image => exact .inr (.inr (.inr (.inl ⟨image, rfl, by rw [hs, h]; rfl⟩)))
  | reset => exact .inr (.inr (.inr (.inr ⟨rfl, by rw [hs, h]; rfl⟩)))

/-- `set_key` writes its key, and ends a wait where it is a press transition (R238). -/
theorem setKey_cases (k : Key) (p : Bool) (s : State) :
    (s.awaiting = true ∧ p = true ∧ s.keyPressed k = false ∧
      setKey k p s = ((s.writeKey k p).setV s.awaitReg (k.setWidth 8)).endWait) ∨
    (¬(s.awaiting = true ∧ p = true ∧ s.keyPressed k = false) ∧ setKey k p s = s.writeKey k p) := by
  cases h1 : s.awaiting <;> cases p <;> cases h3 : s.keyPressed k <;> simp [setKey, State.isPress, h1, h3]

/-- `load_program` writes the image's bytes where they fit, and nothing else (R302). -/
theorem loadProgram_cases (image : Image) (s : State) :
    (image.toBytes.length ≤ maxImage ∧ loadResult image = .loaded ∧
      loadProgram image s = s.writeBytes progBase image.toBytes) ∨
    (maxImage < image.toBytes.length ∧ loadResult image = .imageTooLarge ∧ loadProgram image s = s) := by
  by_cases h : image.toBytes.length ≤ maxImage
  · exact .inl ⟨h, by simp [loadResult, h], by simp [loadProgram, loadResult, h]⟩
  · exact .inr ⟨by omega, by simp [loadResult, h], by simp [loadProgram, loadResult, h]⟩

/-- An image of words has two bytes a word. -/
@[simp] theorem Image.length_toBytes_words (ws : List Word) : (Image.words ws).toBytes.length = 2 * ws.length := by
  induction ws with
  | nil => rfl
  | cons w ws ih =>
    simp only [Image.toBytes, List.flatMap_cons, List.length_append, List.length_cons, List.length_nil] at ih ⊢
    omega

/-- The bytes of an image of words: the high byte of each word, then its low byte (R63). -/
theorem Image.getElem_toBytes_words (ws : List Word) (j : Nat) (hj : j < ws.length) :
    (Image.words ws).toBytes[2 * j]? = some (highByte ws[j]) ∧
      (Image.words ws).toBytes[2 * j + 1]? = some (lowByte ws[j]) := by
  induction ws generalizing j with
  | nil => simp at hj
  | cons w ws ih =>
    cases j with
    | zero => simp [Image.toBytes]
    | succ j => simpa [Image.toBytes, List.flatMap_cons, Nat.mul_add] using ih j (by simpa using hj)

theorem loadProgram_wf {s : State} (h : Memory.wf s.cfg s.mem = true) (image : Image) :
    Memory.wf (loadProgram image s).cfg (loadProgram image s).mem = true := by
  rcases loadProgram_cases image s with ⟨hl, -, he⟩ | ⟨-, -, he⟩ <;> rw [he]
  · exact State.writeBytes_wf h (by simp only [memSize, progBase, maxImage] at *; omega)
  · exact h

theorem reset_mem_wf : Memory.wf State.reset.cfg State.reset.mem = true := rfl

/-- A latched fault holds one of the six codes. -/
theorem CoreError.code_ne (e : CoreError) : e.code ≠ 0#3 ∧ e.code ≠ 7#3 := by cases e <;> decide

/-- Writing PC back: PC plus 2, minus 2. -/
@[simp] theorem State.instrAddr_advance (s : State) : s.advance.instrAddr = s.pc := by
  simp [State.instrAddr]

/-- A state with a word placed for the fetch is ready to run it: `execute_one` is next, no fault is latched, no key awaited. -/
theorem State.withFetchWord_ready (s : State) (nbits w : Nat) :
    (s.withFetchWord nbits w).nextOp = .executeOne ∧ (s.withFetchWord nbits w).faultCode = 0#3 ∧
      (s.withFetchWord nbits w).awaiting = false := by
  refine ⟨rfl, ?_, rfl⟩
  by_cases h : s.faultCode = 0#3 <;> simp [State.withFetchWord, h]

/-- The word placed for the fetch is the word fetched. -/
theorem State.fetch_withFetchWord {s : State} (h : Memory.wf s.cfg s.mem = true) (nbits w : Nat) :
    (s.withFetchWord nbits w).fetch = some (tableWord nbits w) := by
  have key : ∀ (t : State) (a : Word), Memory.wf t.cfg t.mem = true → a.toNat + 1 ≤ 4095 →
      State.fetch { (t.setPc a).writeBytes a.toNat [highByte (tableWord nbits w), lowByte (tableWord nbits w)] with
        awaiting := false, pending := [] } = some (tableWord nbits w) := by
    intro t a ht ha
    have hlen : a.toNat + [highByte (tableWord nbits w), lowByte (tableWord nbits w)].length ≤ memSize := by
      simp only [List.length_cons, List.length_nil, memSize]; omega
    have r0 := State.readByte_writeBytes_inside (s := t.setPc a) ht hlen (k := 0) (by simp)
    have r1 := State.readByte_writeBytes_inside (s := t.setPc a) ht hlen (k := 1) (by simp)
    rw [State.readByte_eq] at r0 r1
    simp only [State.writeBytes_cfg, State.setPc_cfg, Nat.add_zero, List.getElem_cons_zero, List.getElem_cons_succ] at r0 r1
    simp [State.fetch, State.fetchable, ha, State.readByte_eq, r0, r1]
  unfold State.withFetchWord
  have ht : Memory.wf (if s.faultCode = 0#3 then s else s.clearFault).cfg
      (if s.faultCode = 0#3 then s else s.clearFault).mem = true := by
    split
    · exact h
    · exact h
  refine key _ _ ht ?_
  by_cases hf : s.fetchable = true
  · rw [if_pos hf]
    simpa only [State.fetchable, decide_eq_true_eq] using hf
  · rw [if_neg hf]
    decide

end Sys2Proof.Machine
end

