-- ==== Sys2Proof/Laws/Wrote.lean ====
section
/-! SUPPORT. The updates of Ops.lean in the terms of Safety.lean: what each wrote, and that nothing else changed. -/

namespace Sys2Proof.Machine

theorem SameBytes.refl (s : State) : SameBytes s s := fun _ => rfl

theorem SameBytes.of_mem {s t : State} (hm : t.mem = s.mem) (hc : t.cfg = s.cfg) : SameBytes s t :=
  fun a => State.readByte_congr hm hc a

theorem wroteV_setV (s : State) (x : RegIx) (b : Byte) : WroteV s (s.setV x b) x b :=
  ⟨by simp, fun r hr => by simp [hr], rfl, SameBytes.of_mem rfl rfl⟩

theorem wroteVAndFlag_setV_setVF (s : State) (x : RegIx) (b f : Byte) :
    WroteVAndFlag s ((s.setV x b).setVF f) x b f :=
  ⟨by simp, fun h => by simp [h], fun r h1 h2 => by simp [h1, h2], rfl, SameBytes.of_mem rfl rfl⟩

theorem wrotePc_setPc (s : State) (w : Word) : WrotePc s (s.setPc w) w :=
  ⟨rfl, fun _ => rfl, rfl, SameBytes.of_mem rfl rfl⟩

theorem wrotePc_skipIf (s : State) (c : Bool) : WrotePc s (s.skipIf c) (if c = true then s.pc + 2#16 else s.pc) := by
  cases c <;> exact ⟨rfl, fun _ => rfl, rfl, SameBytes.of_mem rfl rfl⟩

theorem wroteI_setI (s : State) (w : Word) : WroteI s (s.setI w) w :=
  ⟨rfl, fun _ => rfl, rfl, SameBytes.of_mem rfl rfl⟩

theorem storedBytes_writeBytes {s : State} (h : Memory.wf s.cfg s.mem = true) {a : Nat} {bs : List Byte}
    (ha : a + bs.length ≤ memSize) : StoredBytes s (s.writeBytes a bs) a bs :=
  ⟨fun _ hk => State.readByte_writeBytes_inside h ha hk, fun _ hc => s.readByte_writeBytes_outside hc,
    fun r => State.readV_writeBytes s a bs r, State.writeBytes_eq s a bs⟩

theorem raised_latch (s : State) (e : CoreError) (a w : Word) : Raised s (s.latch e a w) e.code a w :=
  ⟨rfl, rfl, rfl, rfl, fun _ => rfl, rfl, SameBytes.of_mem rfl rfl⟩

/-! ### The vocabulary of Safety.lean against the operations -/

/-- The word at PC is the one the fetch puts together. -/
theorem State.wordAtPc_eq (s : State) :
    s.wordAtPc = wordOfBytes (s.readByte s.pc.toNat) (s.readByte (s.pc.toNat + 1)) := by
  apply BitVec.eq_of_toNat_eq
  have := (s.readByte s.pc.toNat).isLt
  have := (s.readByte (s.pc.toNat + 1)).isLt
  rw [toNat_wordOfBytes, State.wordAtPc, BitVec.toNat_ofNat]
  omega

/-- The pixels that a Dxyn plots are those the spec's two loops plot. -/
theorem mem_drawnPixels (s : State) (x y : RegIx) (n : Nibble) (qx : Fin 64) (qy : Fin 32) :
    (qx, qy) ∈ s.drawnPixels x y n ↔ Plots s x y n qx qy := by
  unfold State.drawnPixels Plots
  rw [mem_spritePixels]
  have key : ∀ (px py : Nat), placePixel s.cfg.spriteEdge px py = some (qx, qy) ↔
      match s.cfg.spriteEdge with
      | .wrap => qx.val = px % 64 ∧ qy.val = py % 32
      | .clip => qx.val = px ∧ qy.val = py := by
    intro px py
    have hx := qx.isLt
    have hy := qy.isLt
    cases s.cfg.spriteEdge with
    | wrap => simp [placePixel, Fin.ext_iff, eq_comm]
    | clip =>
      by_cases h : px < 64 ∧ py < 32
      · simp [placePixel, h, Fin.ext_iff, eq_comm]
      · simp only [placePixel, h, dite_false, reduceCtorEq, false_iff]
        omega
  constructor
  · rintro ⟨r, hr, c, hc, hb, hp⟩
    exact ⟨r, by simpa using hr, c, hc, by simpa using hb, (key _ _).mp hp⟩
  · rintro ⟨r, hr, c, hc, hb, hp⟩
    exact ⟨r, by simpa using hr, c, hc, by simpa using hb, (key _ _).mpr hp⟩

/-- Latching an error in a legal state that awaits no key gives a legal state. -/
theorem State.Legal.latch {s : State} (h : s.Legal) (e : CoreError) {a : Word} (w : Word) (ha : a.toNat ≤ 0x10FE)
    (hw : s.awaiting = false) : (s.latch e a w).Legal where
  cfg := h.cfg
  mem := h.mem
  pc := ha
  stack := h.stack
  wait := fun hc => by simp [hw] at hc
  noFault := fun hc => absurd hc e.code_ne.1
  fault := fun _ => ⟨rfl, e.code_ne.2⟩

theorem State.Legal.takeOp {s : State} (h : s.Legal) : s.takeOp.Legal :=
  ⟨h.cfg, h.mem, h.pc, h.stack, h.wait, h.noFault, h.fault⟩

/-- What an instruction does to the fault record: nothing, or one error raised before any write. -/
theorem exec_faultRecord_cases {i : Instr} {s t : State} (h : exec i s = .next t) :
    (t.faultCode = s.faultCode ∧ t.faultPc = s.faultPc ∧ t.faultWord = s.faultWord) ∨
      ∃ e, t = s.latch e s.instrAddr (encode i) ∧ e ≠ .outOfBoundsFetch ∧ e ≠ .invalidOpcode := by
  have raised : ∀ e : CoreError, exec i s = .next (s.latch e s.instrAddr (encode i)) → e ≠ .outOfBoundsFetch →
      e ≠ .invalidOpcode → ∃ e, t = s.latch e s.instrAddr (encode i) ∧ e ≠ .outOfBoundsFetch ∧ e ≠ .invalidOpcode := by
    intro e he h1 h2
    rw [he] at h
    cases h
    exact ⟨e, rfl, h1, h2⟩
  cases i
  case ret =>
    rcases exec_ret_cases s with ⟨_, e⟩ | ⟨_, e⟩
    · rw [e] at h; cases h; exact .inl ⟨rfl, rfl, rfl⟩
    · exact .inr (raised _ e (by decide) (by decide))
  case sys nnn => exact .inr (raised _ (exec_sys nnn s) (by decide) (by decide))
  case call nnn =>
    rcases exec_call_cases nnn s with ⟨_, e⟩ | ⟨_, e⟩
    · rw [e] at h; cases h; exact .inl ⟨rfl, rfl, rfl⟩
    · exact .inr (raised _ e (by decide) (by decide))
  case drw x y n =>
    rcases exec_drw_cases x y n s with ⟨_, e⟩ | ⟨_, _, e⟩
    · rw [e] at h; cases h; exact .inl ⟨rfl, rfl, rfl⟩
    · exact .inr (raised _ e (by decide) (by decide))
  case ldBVx x =>
    rcases exec_ldBVx_cases x s with ⟨_, e⟩ | ⟨_, e⟩
    · rw [e] at h; cases h; exact .inl (by simp)
    · exact .inr (raised _ e (by decide) (by decide))
  case ldMemVx x =>
    rcases exec_ldMemVx_cases x s with ⟨_, e⟩ | ⟨_, e⟩
    · rw [e] at h; cases h; exact .inl (by simp)
    · exact .inr (raised _ e (by decide) (by decide))
  case ldVxMem x =>
    rcases exec_ldVxMem_cases x s with ⟨_, e⟩ | ⟨_, e⟩
    · rw [e] at h; cases h; exact .inl (by simp)
    · exact .inr (raised _ e (by decide) (by decide))
  case skp x =>
    rcases exec_skp_cases x s with ⟨_, _, _, e⟩ | ⟨_, _, e⟩ <;> rw [e] at h <;> cases h
    exact .inl (by simp)
  case sknp x =>
    rcases exec_sknp_cases x s with ⟨_, _, _, e⟩ | ⟨_, _, e⟩ <;> rw [e] at h <;> cases h
    exact .inl (by simp)
  all_goals
    cases h
    exact .inl (by simp)

end Sys2Proof.Machine
end

