-- ==== Sys2Proof/Tests/Slice0.lean ====
section
/-! SUPPORT. The model's own tests: words written out from the encodings of spec/30_encoding.md, one step on a small state with the
result that a vector of spec/95_test_vectors.md (its number stands in the comment) or a rule's example gives, and for each statement
with hypotheses a state that meets them. -/

namespace Sys2Proof.Machine.Test

open Sys2Proof Sys2Proof.Machine

/-! ### WellFormed: the terms it refuses (R98) -/

theorem test_wf_refuses_sys_0E0 : (Instr.sys 0x0E0#12).wf = false := by decide
theorem test_wf_refuses_sys_0EE : (Instr.sys 0x0EE#12).wf = false := by decide
theorem test_wf_takes_other_sys : (Instr.sys 0x0E1#12).wf = true ∧ (Instr.sys 0xEE0#12).wf = true := by decide

/-! ### Decode: every constructor by a word written out bit by bit (R97) -/

theorem test_decode_class0 :
    decode 0b0000000011100000#16 = .ok .cls ∧ decode 0b0000000011101110#16 = .ok .ret ∧
    decode 0b0000000100100011#16 = .ok (.sys 0x123#12) ∧ decode 0b0000000111101110#16 = .ok (.sys 0x1EE#12) :=
  ⟨rfl, rfl, rfl, rfl⟩
theorem test_decode_control :
    decode 0b0001001000110100#16 = .ok (.jp 0x234#12) ∧ decode 0b0010001100000000#16 = .ok (.call 0x300#12) ∧
    decode 0b0011101000101111#16 = .ok (.seImm 0xA#4 0x2F#8) ∧ decode 0b0100001101000010#16 = .ok (.sneImm 0x3#4 0x42#8) ∧
    decode 0b0101000100100001#16 = .ok (.seReg 0x1#4 0x2#4 0x1#4) ∧
    decode 0b1001000100101111#16 = .ok (.sneReg 0x1#4 0x2#4 0xF#4) ∧ decode 0b1011001100000001#16 = .ok (.jpV0 0x301#12) :=
  ⟨rfl, rfl, rfl, rfl, rfl, rfl, rfl⟩
theorem test_decode_immediate_alu :
    decode 0b0110101000101111#16 = .ok (.ldImm 0xA#4 0x2F#8) ∧ decode 0b0111000011111111#16 = .ok (.addImm 0x0#4 0xFF#8) ∧
    decode 0b1100001100001111#16 = .ok (.rnd 0x3#4 0x0F#8) :=
  ⟨rfl, rfl, rfl⟩
theorem test_decode_register_alu :
    decode 0b1000000100100000#16 = .ok (.ldReg 0x1#4 0x2#4) ∧ decode 0b1000000100100001#16 = .ok (.orReg 0x1#4 0x2#4) ∧
    decode 0b1000000100100010#16 = .ok (.andReg 0x1#4 0x2#4) ∧ decode 0b1000000100100011#16 = .ok (.xorReg 0x1#4 0x2#4) ∧
    decode 0b1000000100100100#16 = .ok (.addReg 0x1#4 0x2#4) ∧ decode 0b1000111100010101#16 = .ok (.subReg 0xF#4 0x1#4) ∧
    decode 0b1000000100100110#16 = .ok (.shr 0x1#4 0x2#4) ∧ decode 0b1000000100100111#16 = .ok (.subnReg 0x1#4 0x2#4) ∧
    decode 0b1000000100101110#16 = .ok (.shl 0x1#4 0x2#4) :=
  ⟨rfl, rfl, rfl, rfl, rfl, rfl, rfl, rfl, rfl⟩
theorem test_decode_index_and_memory :
    decode 0b1010001011110000#16 = .ok (.ldI 0x2F0#12) ∧ decode 0b1111001000011110#16 = .ok (.addIVx 0x2#4) ∧
    decode 0b1111010000101001#16 = .ok (.ldFVx 0x4#4) ∧ decode 0b1111000000110011#16 = .ok (.ldBVx 0x0#4) ∧
    decode 0b1111111101010101#16 = .ok (.ldMemVx 0xF#4) ∧ decode 0b1111010001100101#16 = .ok (.ldVxMem 0x4#4) :=
  ⟨rfl, rfl, rfl, rfl, rfl, rfl⟩
theorem test_decode_display_keys_timers :
    decode 0b1101000100100101#16 = .ok (.drw 0x1#4 0x2#4 0x5#4) ∧ decode 0b1110000010011110#16 = .ok (.skp 0x0#4) ∧
    decode 0b1110000010100001#16 = .ok (.sknp 0x0#4) ∧ decode 0b1111001100000111#16 = .ok (.ldVxDt 0x3#4) ∧
    decode 0b1111001100001010#16 = .ok (.ldVxK 0x3#4) ∧ decode 0b1111000000010101#16 = .ok (.ldDtVx 0x0#4) ∧
    decode 0b1111000100011000#16 = .ok (.ldStVx 0x1#4) :=
  ⟨rfl, rfl, rfl, rfl, rfl, rfl, rfl⟩
/-- V10 to V14. -/
theorem test_decode_refuses_by_name :
    decode 0x8008#16 = .error (.invalidOpcode 0x8008#16) ∧ decode 0x800F#16 = .error (.invalidOpcode 0x800F#16) ∧
    decode 0xE09F#16 = .error (.invalidOpcode 0xE09F#16) ∧ decode 0xF000#16 = .error (.invalidOpcode 0xF000#16) ∧
    decode 0xF0FF#16 = .error (.invalidOpcode 0xF0FF#16) ∧ decodeBytes [0x60#8] = .error .truncated :=
  ⟨rfl, rfl, rfl, rfl, rfl, rfl⟩
/-- The high byte stands first (R62). -/
theorem test_decode_bytes_big_endian :
    decodeBytes [0x12#8, 0x34#8, 0xFF#8] = .ok (.jp 0x234#12, [0xFF#8]) ∧ decodeTableWord 16 0x1234 = some (.jp 0x234#12) ∧
    decodeTableWord 16 0x8008 = none := ⟨rfl, rfl, rfl⟩

/-! ### One step -/

/-- The state after one step that runs the word, at PC, from a state. -/
def after (s : State) (w : Nat) : State :=
  match step (s.withFetchWord 16 w) with
  | .next t => t
  | .fault _ => s
  | .refused _ => s

/-- Two registers set, from the constructed state. -/
def regs (x : RegIx) (a : Byte) (y : RegIx) (b : Byte) : State := (State.reset.setV x a).setV y b

/-- The fault record is `(code, pc, word)` and PC is back at `pc`. -/
def faultIs (t : State) (code : BitVec 3) (pc word : Word) : Bool :=
  t.faultCode == code && t.faultPc == pc && t.faultWord == word && t.pc == pc

/-- V21, V23, V40: targets are not checked when written, and the next fetch faults. -/
theorem test_jp : (after State.reset 0x1FFF).pc = 0x0FFF#16 ∧
    (after (State.reset.setV 0#4 0xFF#8) 0xBFFF).pc = 0x10FE#16 := by decide
/-- V39: V0 is the index, not Vx. -/
theorem test_jpV0_uses_V0 : (after (regs 0#4 0x10#8 1#4 0x80#8) 0xB123).pc = 0x0133#16 := by decide
/-- V24. -/
theorem test_call : (after (State.reset.setPc 0x0204#16) 0x2300).pc = 0x0300#16 ∧
    (after (State.reset.setPc 0x0204#16) 0x2300).sp = 1 ∧
    (after (State.reset.setPc 0x0204#16) 0x2300).stack[0] = 0x0206#16 := by decide
/-- V25. -/
theorem test_call_overflow :
    faultIs (after { State.reset with sp := 16, pc := 0x0204#16 } 0x2300) 3#3 0x0204#16 0x2300#16 = true := by decide
/-- V28: the slot keeps its value. -/
theorem test_ret :
    (after { State.reset with sp := 1, stack := State.reset.stack.set 0 0x0206#16, pc := 0x0300#16 } 0x00EE).pc = 0x0206#16 ∧
    (after { State.reset with sp := 1, stack := State.reset.stack.set 0 0x0206#16, pc := 0x0300#16 } 0x00EE).stack[0] =
      0x0206#16 := by decide
/-- V29. -/
theorem test_ret_underflow : faultIs (after State.reset 0x00EE) 4#3 0x0200#16 0x00EE#16 = true := by decide
/-- R141's example. -/
theorem test_sys : faultIs (after State.reset 0x0123) 1#3 0x0200#16 0x0123#16 = true := by decide
/-- V30, V31. -/
theorem test_seImm : (after (State.reset.setV 3#4 0x42#8) 0x3342).pc = 0x0204#16 ∧
    (after (State.reset.setV 3#4 0x41#8) 0x3342).pc = 0x0202#16 := by decide
/-- V32, V33. -/
theorem test_sneImm : (after (State.reset.setV 3#4 0x41#8) 0x4342).pc = 0x0204#16 ∧
    (after (State.reset.setV 3#4 0x42#8) 0x4342).pc = 0x0202#16 := by decide
/-- V15, V35. -/
theorem test_seReg : (after (regs 1#4 7#8 2#4 7#8) 0x5121).pc = 0x0204#16 ∧
    (after (State.reset.setV 4#4 0x99#8) 0x5440).pc = 0x0204#16 := by decide
/-- V16, V37. -/
theorem test_sneReg : (after (regs 1#4 7#8 2#4 8#8) 0x912F).pc = 0x0204#16 ∧
    (after (regs 1#4 7#8 2#4 7#8) 0x9120).pc = 0x0202#16 := by decide
/-- V42. -/
theorem test_ldImm : (after (State.reset.setV 0xF#4 1#8) 0x6F80).readV 0xF#4 = 0x80#8 := by decide
/-- V44: no carry flag. -/
theorem test_addImm : (after (regs 0#4 0xFF#8 0xF#4 0x55#8) 0x7001).readV 0#4 = 0#8 ∧
    (after (regs 0#4 0xFF#8 0xF#4 0x55#8) 0x7001).readV 0xF#4 = 0x55#8 := by decide
/-- V46. -/
theorem test_ldReg : (after (State.reset.setV 2#4 0x99#8) 0x8120).readV 1#4 = 0x99#8 := by decide
/-- V47. -/
theorem test_orReg : (after ((regs 1#4 0xF0#8 2#4 0x0F#8).setVF 0x77#8) 0x8121).readV 1#4 = 0xFF#8 ∧
    (after ((regs 1#4 0xF0#8 2#4 0x0F#8).setVF 0x77#8) 0x8121).readV 0xF#4 = 0x77#8 := by decide
/-- V48. -/
theorem test_andReg : (after (regs 1#4 0xF0#8 2#4 0x3C#8) 0x8122).readV 1#4 = 0x30#8 := by decide
/-- V49. -/
theorem test_xorReg : (after (regs 1#4 0xF0#8 2#4 0x3C#8) 0x8123).readV 1#4 = 0xCC#8 := by decide
/-- S2. -/
theorem test_addReg_carry : (after (regs 1#4 0xFF#8 2#4 0x01#8) 0x8124).readV 1#4 = 0#8 ∧
    (after (regs 1#4 0xFF#8 2#4 0x01#8) 0x8124).readV 0xF#4 = 1#8 := by decide
/-- V54, V55: the flag for x = F, the old VF for y = F. -/
theorem test_addReg_vf : (after (regs 0xF#4 0xFF#8 1#4 0x01#8) 0x8F14).readV 0xF#4 = 1#8 ∧
    (after (regs 0xF#4 0x01#8 1#4 0x10#8) 0x81F4).readV 1#4 = 0x11#8 := by decide
/-- S5, V56. -/
theorem test_subReg : (after (regs 1#4 0x03#8 2#4 0x05#8) 0x8125).readV 1#4 = 0xFE#8 ∧
    (after (regs 1#4 0x03#8 2#4 0x05#8) 0x8125).readV 0xF#4 = 0#8 ∧
    (after (regs 1#4 0x33#8 2#4 0x33#8) 0x8125).readV 0xF#4 = 1#8 := by decide
/-- V65, V66. -/
theorem test_subnReg : (after (regs 1#4 0x05#8 2#4 0x03#8) 0x8127).readV 1#4 = 0xFE#8 ∧
    (after (regs 1#4 0x03#8 2#4 0x05#8) 0x8127).readV 0xF#4 = 1#8 := by decide
/-- V61, V63: y is ignored; the flag for x = F. -/
theorem test_shr : (after (regs 1#4 0x04#8 2#4 0xFF#8) 0x8126).readV 1#4 = 0x02#8 ∧
    (after (State.reset.setVF 0x03#8) 0x8F06).readV 0xF#4 = 1#8 := by decide
/-- V68, V72. -/
theorem test_shl : (after (State.reset.setV 1#4 0x81#8) 0x810E).readV 1#4 = 0x02#8 ∧
    (after (State.reset.setV 1#4 0x81#8) 0x810E).readV 0xF#4 = 1#8 ∧
    (after (State.reset.setVF 0x40#8) 0x8F0E).readV 0xF#4 = 0#8 := by decide
/-- R181: one draw, whatever the mask. -/
theorem test_rnd_takes_a_draw : (after State.reset 0xC000).draws = 1 ∧ (after State.reset 0xC000).pc = 0x0202#16 := by decide
/-- V77. -/
theorem test_ldI : (after State.reset 0xA2F0).I = 0x02F0#16 := by decide
/-- V79, V80. -/
theorem test_addIVx : (after ((State.reset.setI 0xFFFF#16).setV 0#4 1#8) 0xF01E).I = 0#16 ∧
    (after ((State.reset.setI 0x0FFF#16).setV 0#4 1#8) 0xF01E).I = 0x1000#16 := by decide
/-- V81, V82. -/
theorem test_ldFVx : (after (State.reset.setV 4#4 0x0B#8) 0xF429).I = 0x0037#16 ∧
    (after (State.reset.setV 0#4 0x1A#8) 0xF029).I = 0x0032#16 := by decide
/-- V88. -/
theorem test_ldBVx : (after ((State.reset.setI 0x0FFD#16).setV 0#4 0xEA#8) 0xF033).readBytes 0xFFD 3 = [2#8, 3#8, 4#8] := by
  decide
/-- V89. -/
theorem test_ldBVx_bounds :
    faultIs (after ((State.reset.setI 0x0FFE#16).setV 0#4 0xEA#8) 0xF033) 6#3 0x0200#16 0xF033#16 = true := by decide
/-- S8 and V98: exactly x + 1 bytes; the font region is writable. -/
theorem test_ldMemVx : (after ((regs 0#4 0x11#8 1#4 0x22#8).setI 0x0002#16) 0xF155).readBytes 0 5 =
    [0xF0#8, 0x90#8, 0x11#8, 0x22#8, 0xF0#8] := by decide
/-- V92, V93. -/
theorem test_ldMemVx_bounds : (after ((State.reset.setI 0x0FFF#16).setV 0#4 0xAB#8) 0xF055).readByte 0xFFF = 0xAB#8 ∧
    faultIs (after (State.reset.setI 0x0FFF#16) 0xF155) 6#3 0x0200#16 0xF155#16 = true := by decide
/-- V95: glyph 0. -/
theorem test_ldVxMem : (after State.reset 0xF465).readVs 4#4 = [0xF0#8, 0x90#8, 0x90#8, 0x90#8, 0xF0#8] ∧
    (after State.reset 0xF465).readV 5#4 = 0#8 := by decide
/-- V97. -/
theorem test_ldVxMem_bounds : faultIs (after ((regs 0#4 0x11#8 1#4 0x22#8).setI 0x0FFF#16) 0xF165) 6#3 0x0200#16 0xF165#16 = true ∧
    (after ((regs 0#4 0x11#8 1#4 0x22#8).setI 0x0FFF#16) 0xF165).readV 1#4 = 0x22#8 := by decide
/-- V101: the wrapped pixels. -/
theorem test_drw_wrap : (after (regs 1#4 0x3E#8 2#4 0x1E#8) 0xD125).disp =
    (plotAll [(62, 30), (63, 30), (0, 30), (1, 30), (62, 31), (1, 31), (62, 0), (1, 0), (62, 1), (1, 1), (62, 2), (63, 2), (0, 2),
      (1, 2)] blankDisplay).1 := by decide
/-- V102: the clipped pixels. -/
theorem test_drw_clip :
    (after { regs 1#4 0x3E#8 2#4 0x1E#8 with cfg := { defaultConfig with spriteEdge := .clip } } 0xD125).disp =
      (plotAll [(62, 30), (63, 30), (62, 31)] blankDisplay).1 := by decide
/-- V100, V109: a second drawing erases and collides; the old VF is the coordinate. -/
theorem test_drw_collision : (after (after State.reset 0xD125) 0xD125).disp = blankDisplay ∧
    (after (after State.reset 0xD125) 0xD125).readV 0xF#4 = 1#8 ∧
    pixel (after (State.reset.setVF 0x08#8) 0xDF01).disp 8 0 = true := by decide
/-- V104, V106. -/
theorem test_drw_bounds : (after ((State.reset.setI 0xFFFF#16).setVF 1#8) 0xD120).readV 0xF#4 = 0#8 ∧
    faultIs (after (State.reset.setI 0x0FFC#16) 0xD015) 6#3 0x0200#16 0xD015#16 = true := by decide
/-- V6. -/
theorem test_cls : (after (State.reset.setDisp (plotXor blankDisplay 5 6).1) 0x00E0).disp = blankDisplay := by decide
/-- V110, V114. -/
theorem test_skp : (after ((State.reset.writeKey 5#4 true).setV 0#4 5#8) 0xE09E).pc = 0x0204#16 ∧
    (after ((State.reset.writeKey 5#4 true).setV 0#4 0x15#8) 0xE09E).pc = 0x0204#16 := by decide
/-- V112, V113. -/
theorem test_sknp : (after (State.reset.setV 0#4 5#8) 0xE0A1).pc = 0x0204#16 ∧
    (after ((State.reset.writeKey 5#4 true).setV 0#4 5#8) 0xE0A1).pc = 0x0202#16 := by decide
/-- V115. -/
theorem test_ldVxDt : (after (State.reset.setDT 0x3C#8) 0xF307).readV 3#4 = 0x3C#8 := by decide
/-- V116, V119: the wait, and the first press that ends it. -/
theorem test_ldVxK : (after State.reset 0xF30A).awaiting = true ∧ (after State.reset 0xF30A).pc = 0x0202#16 ∧
    (setKey 9#4 true (setKey 2#4 true (after State.reset 0xF30A))).readV 3#4 = 0x02#8 := by decide
/-- V117, V118: a held key does not end the wait; a release and a press do. -/
theorem test_held_key_does_not_end_the_wait :
    (setKey 7#4 true (after (State.reset.writeKey 7#4 true) 0xF30A)).awaiting = true ∧
    (setKey 7#4 true (setKey 7#4 false (after (State.reset.writeKey 7#4 true) 0xF30A))).readV 3#4 = 7#8 := by decide
/-- V123. -/
theorem test_ldDtVx : (after (State.reset.setV 0#4 5#8) 0xF015).dt = 5#8 := by decide
/-- V125. -/
theorem test_ldStVx : (after (State.reset.setV 1#4 0x10#8) 0xF118).st = 0x10#8 ∧
    soundActive (after (State.reset.setV 1#4 0x10#8) 0xF118) = true := by decide
/-- V127, V128. -/
theorem test_tick : (tickTimers ((State.reset.setDT 2#8).setST 5#8)).dt = 1#8 ∧
    (tickTimers ((State.reset.setDT 2#8).setST 5#8)).st = 4#8 ∧ (tickTimers State.reset).dt = 0#8 := by decide
/-- V132, V131. -/
theorem test_load : (loadProgram (.words [0x1234#16, 0x00E0#16]) State.reset).readBytes 0x200 4 =
    [0x12#8, 0x34#8, 0x00#8, 0xE0#8] ∧ loadResult (.bytes (List.replicate 3585 0#8)) = .imageTooLarge :=
  ⟨by decide, by rw [loadResult, Image.toBytes, List.length_replicate]; rfl⟩
/-- V129: the keys are kept. -/
theorem test_reset_operation :
    hostReset (((State.reset.writeKey 3#4 true).latch .invalidOpcode 0x0210#16 0x8008#16).setV 1#4 1#8) =
      State.reset.writeKey 3#4 true := by decide
/-- V134. -/
theorem test_font : State.reset.readBytes 0x000 5 = [0xF0#8, 0x90#8, 0x90#8, 0x90#8, 0xF0#8] ∧
    State.reset.readBytes 0x04B 6 = [0xF0#8, 0x80#8, 0xF0#8, 0x80#8, 0x80#8, 0x00#8] := by decide
/-- S10, V135: 4094 is fetched, 4095 is not, and the fetch error comes first. -/
theorem test_fetch_bound : (after (State.reset.setPc 0x0FFE#16) 0x6001).pc = 0x1000#16 ∧
    executeOne { State.reset with pc := 0x0FFF#16, sp := 16 } =
      .next (State.latch { State.reset with pc := 0x0FFF#16, sp := 16 } .outOfBoundsFetch 0x0FFF#16 0x0000#16) :=
  ⟨by decide, rfl⟩
/-- V2: an odd PC is fetched as it is. -/
theorem test_odd_pc : (after (State.reset.setPc 0x0201#16) 0x6011).readV 0#4 = 0x11#8 ∧
    (after (State.reset.setPc 0x0201#16) 0x6011).pc = 0x0203#16 := by decide
/-- V10. -/
theorem test_invalid_opcode : faultIs (after State.reset 0x8008) 2#3 0x0200#16 0x8008#16 = true := by decide
/-- V5, V20. -/
theorem test_results : stepResult (State.reset.startWait 3#4) = some .waiting ∧
    stepResult (State.reset.withFetchWord 16 0x7003) = some (.executed 0x7003#16) ∧
    stepResult (State.reset.withFetchWord 16 0x8008) = some (.faulted 2#3) := by decide
/-- R73: the operations happen in the host's order: a tick, then one instruction. -/
theorem test_pending_order :
    Sys2Proof.core.run 2 { State.reset.setDT 3#8 with pending := [.tickTimers] } =
      .next ((State.reset.setDT 2#8).latch .unsupportedInstruction 0x0200#16 0x0000#16) := rfl

/-! ### Witnesses: for each statement with hypotheses, a state and operands that meet them -/

theorem witness_DecodeOfEncode : (Instr.sys 0x0E1#12).wf = true ∧ (Instr.drw 0xF#4 0x0#4 0xF#4).wf = true := by decide
theorem witness_EncodeOfDecode : decode 0x512F#16 = .ok (.seReg 0x1#4 0x2#4 0xF#4) := rfl
theorem witness_DecoderRefuses :
    IllegalWord 0x8008#16 ∧ IllegalWord 0x800F#16 ∧ IllegalWord 0xE09F#16 ∧ IllegalWord 0xFFFF#16 ∧
    ¬ IllegalWord 0x8007#16 ∧ ¬ IllegalWord 0x800E#16 ∧ ¬ IllegalWord 0xE09E#16 ∧ ¬ IllegalWord 0xF065#16 :=
  ⟨by decide, by decide, by decide, by decide, by decide, by decide, by decide, by decide⟩

/-- A state about to run a word at 0x200. -/
abbrev ready (w : Nat) : State := State.reset.withFetchWord 16 w

theorem witness_StepRuns : (ready 0x6A2F).nextOp = .executeOne ∧ (ready 0x6A2F).Running ∧ (ready 0x6A2F).pc.toNat + 1 ≤ 4095 ∧
    decode (ready 0x6A2F).wordAtPc = .ok (.ldImm 0xA#4 0x2F#8) := ⟨rfl, ⟨rfl, rfl⟩, by decide, rfl⟩
theorem witness_FetchRaises :
    ((State.reset.setPc 4095#16).nextOp = .executeOne ∧ (State.reset.setPc 4095#16).Running ∧
      4095 < (State.reset.setPc 4095#16).pc.toNat + 1) ∧
    ((State.reset.setPc 4094#16).nextOp = .executeOne ∧ (State.reset.setPc 4094#16).Running ∧
      (State.reset.setPc 4094#16).pc.toNat + 1 ≤ 4095 ∧ ∃ t, step (State.reset.setPc 4094#16) = .next t) :=
  ⟨⟨rfl, ⟨rfl, rfl⟩, by decide⟩, rfl, ⟨rfl, rfl⟩, by decide, _, rfl⟩
theorem witness_IllegalWord : (ready 0x8008).nextOp = .executeOne ∧ (ready 0x8008).Running ∧
    (ready 0x8008).pc.toNat + 1 ≤ 4095 ∧ IllegalWord (ready 0x8008).wordAtPc :=
  ⟨rfl, ⟨rfl, rfl⟩, by decide, by decide⟩

/-- A state with a fault latched. -/
def faulted : State := State.reset.latch .stackUnderflow 0x0200#16 0x00EE#16

theorem witness_LatchedFault : faulted.nextOp = .executeOne ∧ faulted.faultCode ≠ 0#3 := by decide
theorem witness_Waiting : (State.reset.startWait 3#4).nextOp = .executeOne ∧ (State.reset.startWait 3#4).faultCode = 0#3 ∧
    (State.reset.startWait 3#4).awaiting = true := by decide
theorem witness_Executed : (ready 0x6A2F).Running ∧ executeOne (ready 0x6A2F) = .next ((ready 0x6A2F).advance.setV 0xA#4 0x2F#8) ∧
    ((ready 0x6A2F).advance.setV 0xA#4 0x2F#8).faultCode = 0#3 ∧ (ready 0x6A2F).cfg.traceEnabled = false :=
  ⟨⟨rfl, rfl⟩, rfl, rfl, rfl⟩
theorem witness_Executed_traced :
    executeOne { ready 0x6A2F with cfg := { defaultConfig with traceEnabled := true } } =
      .next ({ ready 0x6A2F with cfg := { defaultConfig with traceEnabled := true } }.advance.setV 0xA#4 0x2F#8) := rfl
theorem witness_ErrorsArePrecise : step (ready 0x00EE) = .next ((ready 0x00EE).latch .stackUnderflow 0x0200#16 0x00EE#16) ∧
    (ready 0x00EE).faultCode = 0#3 ∧ ((ready 0x00EE).latch .stackUnderflow 0x0200#16 0x00EE#16).faultCode ≠ 0#3 :=
  ⟨rfl, rfl, by decide⟩
theorem witness_OnlyResetClears : step { faulted with pending := [.tickTimers] } = .next faulted ∧ faulted.faultCode ≠ 0#3 :=
  ⟨rfl, by decide⟩
theorem witness_EndOfWait : step { State.reset.startWait 3#4 with pending := [.setKey 7#4 true] } =
      .next (((State.reset.startWait 3#4).writeKey 7#4 true).setV 3#4 7#8).endWait ∧
    (((State.reset.startWait 3#4).writeKey 7#4 true).setV 3#4 7#8).endWait.awaiting = false := ⟨rfl, rfl⟩
theorem witness_KeysChange : step { State.reset with pending := [.setKey 7#4 true] } = .next (State.reset.writeKey 7#4 true) ∧
    (State.reset.writeKey 7#4 true).keys ≠ State.reset.keys := ⟨rfl, by decide⟩
theorem witness_StepHasNext : step State.reset = .next (State.reset.latch .unsupportedInstruction 0x0200#16 0x0000#16) ∧
    State.reset.cfg.keyIndexHigh = .lowNibble := ⟨rfl, rfl⟩
theorem witness_Footprint : exec (.ldImm 1#4 2#8) State.reset = .next (State.reset.setV 1#4 2#8) := rfl
/-- A store, a call and an error: the three kinds of clause of the footprint. -/
theorem witness_Footprint_kinds :
    exec (.ldMemVx 1#4) State.reset = .next (State.reset.writeBytes 0 [0x00#8, 0x00#8]) ∧
    exec (.call 0x300#12) State.reset =
      .next { State.reset with sp := 1, stack := State.reset.stack.set 0 0x0200#16, pc := 0x0300#16 } ∧
    exec .ret State.reset = .next (State.reset.latch .stackUnderflow 0x01FE#16 0x00EE#16) := ⟨rfl, rfl, rfl⟩
/-- A legal state with a fault, one without, and a step of each. -/
theorem witness_Legal : faulted.Legal ∧ step faulted = .next faulted ∧ (State.reset.setDT 1#8).Legal ∧
    step { State.reset.setDT 1#8 with pending := [.tickTimers] } = .next State.reset :=
  ⟨⟨by decide, rfl, by decide, by decide, by decide, by decide, by decide⟩, rfl,
    ⟨by decide, rfl, by decide, by decide, by decide, by decide, by decide⟩, rfl⟩
theorem witness_Canonical : Memory.wf State.reset.cfg (State.reset.writeByte 0x200 5#8).mem = true ∧
    Memory.wf State.reset.cfg ((State.reset.writeByte 0x201 7#8).writeByte 0x201 0#8).mem = true ∧
    (∀ a < 4096, ((State.reset.writeByte 0x201 7#8).writeByte 0x201 0#8).readByte a = State.reset.readByte a) ∧
    (State.reset.writeByte 0x200 5#8).readByte 0x200 ≠ State.reset.readByte 0x200 :=
  ⟨by decide, by decide, fun _ _ => rfl, by decide⟩
theorem witness_Reset : { faulted with pending := [.reset] }.nextOp = .reset := rfl
theorem witness_Load : { State.reset with pending := [.loadProgram (.bytes (List.replicate 3584 1#8))] }.nextOp =
      .loadProgram (.bytes (List.replicate 3584 1#8)) ∧ (List.replicate 3584 1#8).length ≤ 3584 ∧
    3584 < (List.replicate 3585 1#8).length ∧ Memory.wf State.reset.cfg State.reset.mem = true :=
  ⟨rfl, by rw [List.length_replicate], by rw [List.length_replicate]; decide, rfl⟩
theorem witness_Load_words : { State.reset with pending := [.loadProgram (.words [0x1234#16])] }.nextOp =
      .loadProgram (.words [0x1234#16]) ∧ (Image.words [0x1234#16]).toBytes.length ≤ 3584 ∧
    3584 < (Image.words (List.replicate 1793 1#16)).toBytes.length :=
  ⟨rfl, by decide, by rw [Image.length_toBytes_words, List.length_replicate]; decide⟩
theorem witness_LoadWords : { State.reset with pending := [.loadProgram (.words (List.replicate 1792 1#16))] }.nextOp =
    .loadProgram (.words (List.replicate 1792 1#16)) ∧ (List.replicate 1792 1#16).length ≤ 1792 ∧
    1792 < (List.replicate 1793 1#16).length ∧ Memory.wf State.reset.cfg State.reset.mem = true :=
  ⟨rfl, by rw [List.length_replicate], by rw [List.length_replicate]; decide, rfl⟩
theorem witness_Tick : { faulted with pending := [.tickTimers] }.nextOp = .tickTimers := rfl
theorem witness_SetKey : { State.reset.startWait 3#4 with pending := [.setKey 15#4 true] }.nextOp = .setKey 15#4 true ∧
    (State.reset.startWait 3#4).awaiting = true ∧ (State.reset.startWait 3#4).keyPressed 15#4 = false ∧
    ¬(State.reset.awaiting = true ∧ true = true ∧ State.reset.keyPressed 15#4 = false) := by decide
theorem witness_Call : { State.reset with sp := 15 }.sp.val < 16 ∧ { State.reset with sp := 16 }.sp.val = 16 := by decide
theorem witness_Ret : 0 < { State.reset with sp := 1 }.sp.val ∧ State.reset.sp.val = 0 := by decide
theorem witness_CallRet : { State.reset with sp := 15 }.sp.val < 16 ∧
    exec (.call 0x300#12) { State.reset with sp := 15 } =
      .next { State.reset with sp := 16, stack := State.reset.stack.set 15 0x0200#16, pc := 0x0300#16 } := ⟨by decide, rfl⟩
theorem witness_Bcd : Memory.wf State.reset.cfg (State.reset.setI 0x0FFD#16).mem = true ∧
    (State.reset.setI 0x0FFD#16).I.toNat + 2 < 4096 ∧ 4096 ≤ (State.reset.setI 0x0FFE#16).I.toNat + 2 := by decide
theorem witness_Block : (State.reset.setI 0x0FF0#16).I.toNat + (0xF#4 : RegIx).toNat < 4096 ∧
    4096 ≤ (State.reset.setI 0x0FF1#16).I.toNat + (0xF#4 : RegIx).toNat := by decide
theorem witness_StoreLoad : Memory.wf State.reset.cfg State.reset.mem = true ∧ State.reset.I.toNat + (1#4 : RegIx).toNat < 4096 ∧
    exec (.ldMemVx 1#4) State.reset = .next (State.reset.writeBytes 0 [0#8, 0#8]) := ⟨rfl, by decide, rfl⟩
theorem witness_FetchSeesStore : ((State.reset.setPc 0x0FFE#16).setI 0x0FFE#16).I = ((State.reset.setPc 0x0FFE#16).setI 0x0FFE#16).pc ∧
    1 ≤ (1#4 : RegIx).toNat ∧ ((State.reset.setPc 0x0FFE#16).setI 0x0FFE#16).pc.toNat + (1#4 : RegIx).toNat < 4096 ∧
    exec (.ldMemVx 1#4) ((State.reset.setPc 0x0FFE#16).setI 0x0FFE#16) =
      .next (((State.reset.setPc 0x0FFE#16).setI 0x0FFE#16).writeBytes 0xFFE [0#8, 0#8]) := ⟨rfl, by decide, by decide, rfl⟩
theorem witness_Draw : (State.reset.setI 0x0FF1#16).I.toNat + (0xF#4 : Nibble).toNat ≤ 4096 ∧ (0x0#4 : Nibble).toNat = 0 := by decide
theorem witness_DrawPlots : Plots State.reset 0#4 0#4 1#4 0 0 ∧ ¬ Plots State.reset 0#4 0#4 1#4 5 5 := by
  refine ⟨⟨0, by decide, 0, by decide, rfl, rfl, rfl⟩, ?_⟩
  rintro ⟨r, hr, c, -, -, -, h⟩
  have h0 : r = 0 := by have : r < 1 := hr; omega
  subst h0
  exact absurd h (by decide)
theorem witness_DrawBeyond : 0 < (1#4 : Nibble).toNat ∧ 4096 < (State.reset.setI 0x1000#16).I.toNat + (1#4 : Nibble).toNat := by
  decide
theorem witness_DrawTwice : (0#4 : RegIx) ≠ vfIx ∧ State.reset.I.toNat + (1#4 : Nibble).toNat ≤ 4096 ∧
    ∃ t, exec (.drw 0#4 0#4 1#4) State.reset = .next t := ⟨by decide, by decide, _, rfl⟩
theorem witness_KeySkips : (0xF#4 : Key).toNat = ((State.reset.setV 0#4 15#8).readV 0#4).toNat % 16 ∧
    ((State.reset.setV 0#4 15#8).readV 0#4).toNat < 16 ∧
    (0x0#4 : Key).toNat = ((State.reset.setV 0#4 16#8).readV 0#4).toNat % 16 ∧ 16 ≤ ((State.reset.setV 0#4 16#8).readV 0#4).toNat ∧
    { State.reset with cfg := { defaultConfig with keyIndexHigh := .refuse } }.cfg.keyIndexHigh = .refuse := by decide

end Sys2Proof.Machine.Test
end

section
/-! Proofs of the statements about the fetch-decode-execute cycle (spec/40_cycle.md). -/

namespace Sys2Proof.Machine

/-- R123, R124: where PC is fetchable, the fetch gives the word that stands at PC. -/
theorem State.fetch_eq_wordAtPc {s : State} (hpc : s.pc.toNat + 1 ≤ 4095) : s.fetch = some s.wordAtPc := by
  rcases s.fetch_cases with ⟨-, hf⟩ | ⟨hout, -⟩
  · rw [hf, s.wordAtPc_eq]
  · omega

/-- Taking the next operation does not change the word at PC. -/
@[simp] theorem State.wordAtPc_takeOp (s : State) : s.takeOp.wordAtPc = s.wordAtPc := rfl

/-- Taking the next operation neither latches a fault nor begins a wait. -/
@[simp] theorem State.running_takeOp (s : State) : s.takeOp.Running ↔ s.Running := Iff.rfl

/-- Where `execute_one` is the next operation, a step performs it on the state without it (R50). -/
theorem step_eq_executeOne {s : State} (hop : s.nextOp = .executeOne) : step s = executeOne s.takeOp := by
  simpa [hop] using step_cases s

/-- R122: a running core that fetches a word that decodes runs the instruction, with PC advanced. -/
theorem executeOne_eq_exec {s : State} {w : Word} {i : Instr} (hrun : s.Running) (hfetch : s.fetch = some w)
    (hdec : decode w = .ok i) : executeOne s = exec i s.advance := by
  obtain ⟨hfault, hwait⟩ := hrun
  simpa [hfault, hwait, hfetch, hdec] using executeOne_cases s

/-- Settles O5: the step is `execute_one`, its fetch gives the word at PC, and taking the operation moves neither PC nor memory. -/
theorem stepRunsTheDecodedInstruction : Obligations.StepRunsTheDecodedInstruction := by
  intro s i hop hrun hpc hdec
  have hfetch : s.takeOp.fetch = some s.wordAtPc := by
    rw [State.fetch_eq_wordAtPc (by simpa using hpc), State.wordAtPc_takeOp]
  calc step s
      = executeOne s.takeOp := step_eq_executeOne hop
    _ = exec i s.takeOp.advance := executeOne_eq_exec (s.running_takeOp.mpr hrun) hfetch hdec
    _ = exec i { s.takeOp with pc := s.pc + 2#16 } := rfl

end Sys2Proof.Machine
end

section
/-! Proofs of the statements about the jumps and the immediate skips (spec/41_control_flow.md). -/

namespace Sys2Proof.Machine

/-! ### The meanings as equations (R142, R148, R144, R145) -/

@[simp] theorem exec_jp (nnn : Addr12) (s : State) : exec (.jp nnn) s = .next (s.setPc (zextAddr nnn)) := rfl

@[simp] theorem exec_jpV0 (nnn : Addr12) (s : State) :
    exec (.jpV0 nnn) s = .next (s.setPc (indexedTarget nnn (s.readV 0#4))) := rfl

@[simp] theorem exec_seImm (x : RegIx) (kk : Byte) (s : State) :
    exec (.seImm x kk) s = .next (s.skipIf (s.readV x == kk)) := rfl

@[simp] theorem exec_sneImm (x : RegIx) (kk : Byte) (s : State) :
    exec (.sneImm x kk) s = .next (s.skipIf (s.readV x != kk)) := rfl

/-! ### Jump targets as numbers -/

theorem zextAddr_eq_ofNat (nnn : Addr12) : zextAddr nnn = BitVec.ofNat 16 nnn.toNat :=
  (BitVec.ofNat_toNat 16 nnn).symm

/-- The sum is exact: 12 bits and 8 bits add up to less than 2 ^ 16. -/
theorem toNat_indexedTarget (nnn : Addr12) (v0 : Byte) : (indexedTarget nnn v0).toNat = nnn.toNat + v0.toNat := by
  have hnnn := nnn.isLt
  have hv0 := v0.isLt
  rw [indexedTarget, zextAddr, zextByte, BitVec.toNat_add, BitVec.toNat_setWidth, BitVec.toNat_setWidth]
  omega

/-! ### Skips on two bytes compared as numbers -/

theorem wrotePc_skipIf_beq (s : State) (a b : Byte) :
    WrotePc s (s.skipIf (a == b)) (if a.toNat = b.toNat then s.pc + 2#16 else s.pc) := by
  simpa only [beq_iff_eq, BitVec.toNat_inj] using wrotePc_skipIf s (a == b)

theorem wrotePc_skipIf_bne (s : State) (a b : Byte) :
    WrotePc s (s.skipIf (a != b)) (if a.toNat = b.toNat then s.pc else s.pc + 2#16) := by
  simpa only [bne_iff_ne, ne_eq, ite_not, BitVec.toNat_inj] using wrotePc_skipIf s (a != b)

/-! ### The statements -/

/-- Settles O28: the jump writes PC alone, and its target is `nnn` as a word. -/
theorem jumpWritesTheAddress : Obligations.JumpWritesTheAddress := by
  intro s nnn
  refine ⟨_, exec_jp nnn s, ?_⟩
  rw [← zextAddr_eq_ofNat]
  exact wrotePc_setPc s (zextAddr nnn)

/-- Settles O29: the indexed jump writes PC alone, and its target is the sum, which fits in 16 bits. -/
theorem indexedJumpAddsV0 : Obligations.IndexedJumpAddsV0 := fun s nnn =>
  ⟨_, exec_jpV0 nnn s, toNat_indexedTarget nnn (s.readV 0#4), wrotePc_setPc s _⟩

/-- Settles O34: both skips compare Vx with `kk`, and bytes are equal exactly where their numbers are. -/
theorem immediateSkipsCompareTheRegister : Obligations.ImmediateSkipsCompareTheRegister := fun s x kk =>
  ⟨⟨_, exec_seImm x kk s, wrotePc_skipIf_beq s (s.readV x) kk⟩,
    ⟨_, exec_sneImm x kk s, wrotePc_skipIf_bne s (s.readV x) kk⟩⟩

end Sys2Proof.Machine
end

section
/-! Proofs of the statement about the loads of a register (spec/42_alu.md). -/

namespace Sys2Proof.Machine

/-! ### The meanings as equations (R170, R172) -/

@[simp] theorem exec_ldImm (x : RegIx) (kk : Byte) (s : State) : exec (.ldImm x kk) s = .next (s.setV x kk) := rfl

@[simp] theorem exec_ldReg (x y : RegIx) (s : State) : exec (.ldReg x y) s = .next (s.setV x (s.readV y)) := rfl

/-! ### The statement -/

/-- Settles O36: both loads are one write of Vx, and that write changes nothing else. -/
theorem loadsWriteTheirValue : Obligations.LoadsWriteTheirValue := fun s x y kk =>
  ⟨⟨_, exec_ldImm x kk s, wroteV_setV s x kk⟩,
    ⟨_, exec_ldReg x y s, wroteV_setV s x (s.readV y)⟩⟩

end Sys2Proof.Machine
end

section
/-! Proof of the statement about the load of I (spec/43_index_memory.md). -/

namespace Sys2Proof.Machine

/-- R200: the load of I is one write of I, its address widened to a word. -/
@[simp] theorem exec_ldI (nnn : Addr12) (s : State) : exec (.ldI nnn) s = .next (s.setI (zextAddr nnn)) := rfl

/-- Settles O43: the load writes I alone, so every byte reads as before, and the word it writes is `nnn` as a number. -/
theorem loadIWritesTheAddress : Obligations.LoadIWritesTheAddress := by
  intro s nnn
  refine ⟨_, exec_ldI nnn s, ?_⟩
  rw [← zextAddr_eq_ofNat]
  exact wroteI_setI s (zextAddr nnn)

end Sys2Proof.Machine
end

section
/-! Proofs of the statements about the display's clear and the delay timer (spec/44_display_keys_timers.md). -/

namespace Sys2Proof.Machine

/-! ### The meanings as equations (R230, R236, R239) -/

@[simp] theorem exec_cls (s : State) : exec .cls s = .next s.clearDisplay := rfl

@[simp] theorem exec_ldVxDt (x : RegIx) (s : State) : exec (.ldVxDt x) s = .next (s.setV x s.dt) := rfl

@[simp] theorem exec_ldDtVx (x : RegIx) (s : State) : exec (.ldDtVx x) s = .next (s.setDT (s.readV x)) := rfl

/-! ### The statements -/

/-- Settles O51: the clear writes the display alone, and every pixel of the blank display is off. -/
theorem clearTurnsEveryPixelOff : Obligations.ClearTurnsEveryPixelOff := fun s =>
  ⟨_, exec_cls s, pixel_blankDisplay, s.readV_clearDisplay, rfl, s.readByte_clearDisplay⟩

/-- Settles O56: the read is one write of Vx, and the other direction writes the delay timer alone. -/
theorem delayTimerIsReadAndSet : Obligations.DelayTimerIsReadAndSet := fun s x =>
  ⟨⟨_, exec_ldVxDt x s, wroteV_setV s x s.dt⟩,
    ⟨_, exec_ldDtVx x s, s.setDT_dt _, s.readV_setDT _, rfl, s.readByte_setDT _⟩⟩

end Sys2Proof.Machine
end

section
/-! Proofs of the statements about encoding and decode (spec/30_encoding.md). -/

namespace Sys2Proof

/-! ### A word put together from its fields, the fixed ones written out -/

theorem packNnn_of_op {w : Word} {op : Nibble} (hop : (opField w).toNat = op.toNat) : packNnn op (nnnField w) = w := by
  rw [← BitVec.eq_of_toNat_eq hop, packNnn_fields]

theorem packXkk_of_op {w : Word} {op : Nibble} (hop : (opField w).toNat = op.toNat) :
    packXkk op (xField w) (kkField w) = w := by
  rw [← BitVec.eq_of_toNat_eq hop, packXkk_fields]

theorem packXyn_of_op {w : Word} {op : Nibble} (hop : (opField w).toNat = op.toNat) :
    packXyn op (xField w) (yField w) (nField w) = w := by
  rw [← BitVec.eq_of_toNat_eq hop, packXyn_fields]

theorem packXyn_of_op_n {w : Word} {op n : Nibble} (hop : (opField w).toNat = op.toNat)
    (hn : (nField w).toNat = n.toNat) : packXyn op (xField w) (yField w) n = w := by
  rw [← BitVec.eq_of_toNat_eq hn, packXyn_of_op hop]

theorem packXkk_of_op_kk {w : Word} {op : Nibble} {kk : Byte} (hop : (opField w).toNat = op.toNat)
    (hkk : (kkField w).toNat = kk.toNat) : packXkk op (xField w) kk = w := by
  rw [← BitVec.eq_of_toNat_eq hkk, packXkk_of_op hop]

/-! ### All that the decoder can do -/

open Machine (IllegalWord)

/-- What the decoder answers a word: an illegal one its error, every other one the instruction whose word it is. -/
def DecodesAsSpecified (w : Word) (r : Except DecodeError Instr) : Prop :=
  (IllegalWord w ∧ r = .error (.invalidOpcode w)) ∨
    (¬ IllegalWord w ∧ ∃ i, r = .ok i ∧ i.wf = true ∧ encode i = w)

theorem DecodesAsSpecified.error {w : Word} (hw : IllegalWord w) : DecodesAsSpecified w (.error (.invalidOpcode w)) :=
  .inl ⟨hw, rfl⟩

theorem DecodesAsSpecified.ok {w : Word} {i : Instr} (hw : ¬ IllegalWord w) (hwf : i.wf = true) (henc : encode i = w) :
    DecodesAsSpecified w (.ok i) := .inr ⟨hw, i, rfl, hwf, henc⟩

/-- Only words of classes 8, E and F are illegal (R100 to R103). -/
theorem not_illegalWord_of_op {w : Word} (h8 : (opField w).toNat ≠ 0x8) (hE : (opField w).toNat ≠ 0xE)
    (hF : (opField w).toNat ≠ 0xF) : ¬ IllegalWord w := by
  rw [toNat_opField] at h8 hE hF
  simp [IllegalWord, h8, hE, hF]

theorem illegalWord_iff_of_op8 {w : Word} (hop : (opField w).toNat = 0x8) :
    IllegalWord w ↔ (nField w).toNat ∈ [0x8, 0x9, 0xA, 0xB, 0xC, 0xD, 0xF] := by
  rw [toNat_opField] at hop
  simp only [IllegalWord, hop, toNat_nField]
  simp

theorem illegalWord_iff_of_opE {w : Word} (hop : (opField w).toNat = 0xE) :
    IllegalWord w ↔ (kkField w).toNat ∉ [0x9E, 0xA1] := by
  rw [toNat_opField] at hop
  simp only [IllegalWord, hop, toNat_kkField]
  simp

theorem illegalWord_iff_of_opF {w : Word} (hop : (opField w).toNat = 0xF) :
    IllegalWord w ↔ (kkField w).toNat ∉ [0x07, 0x0A, 0x15, 0x18, 0x1E, 0x29, 0x33, 0x55, 0x65] := by
  rw [toNat_opField] at hop
  simp only [IllegalWord, hop, toNat_kkField]
  simp

/-- Class 0: CLS, RET, and SYS with every other operand (R98). -/
theorem decodeClass0_spec {w : Word} (hop : (opField w).toNat = 0x0) :
    (decodeClass0 w).wf = true ∧ encode (decodeClass0 w) = w := by
  have hw : packNnn 0x0#4 (nnnField w) = w := packNnn_of_op hop
  unfold decodeClass0
  split_ifs with hcls hret
  · rw [hcls] at hw
    exact ⟨rfl, hw⟩
  · rw [hret] at hw
    exact ⟨rfl, hw⟩
  · exact ⟨by simp [Instr.wf, hcls, hret], hw⟩

/-- Class 8: one instruction for each listed n, and the error for each other n (R100). -/
theorem decodeClass8_spec {w : Word} (hop : (opField w).toNat = 0x8) : DecodesAsSpecified w (decodeClass8 w) := by
  have hill := illegalWord_iff_of_op8 hop
  have hlt := (nField w).isLt
  unfold decodeClass8
  split
  case h_10 =>
    refine .error (hill.mpr ?_)
    simp only [imp_false, List.mem_cons, List.not_mem_nil, or_false] at *
    omega
  all_goals
    next hn => exact .ok (by rw [hill, hn]; decide) rfl (packXyn_of_op_n hop hn)

/-- Class E: one instruction for each listed kk, and the error for each other kk (R101). -/
theorem decodeClassE_spec {w : Word} (hop : (opField w).toNat = 0xE) : DecodesAsSpecified w (decodeClassE w) := by
  have hill := illegalWord_iff_of_opE hop
  unfold decodeClassE
  split
  case h_3 => exact .error (hill.mpr (by simp_all))
  all_goals
    next hkk => exact .ok (by rw [hill, hkk]; decide) rfl (packXkk_of_op_kk hop hkk)

/-- Class F: one instruction for each listed kk, and the error for each other kk (R102). -/
theorem decodeClassF_spec {w : Word} (hop : (opField w).toNat = 0xF) : DecodesAsSpecified w (decodeClassF w) := by
  have hill := illegalWord_iff_of_opF hop
  unfold decodeClassF
  split
  case h_10 => exact .error (hill.mpr (by simp_all))
  all_goals
    next hkk => exact .ok (by rw [hill, hkk]; decide) rfl (packXkk_of_op_kk hop hkk)

/-- All that the decoder can do (R96): first on op, then on the sub-field of classes 0, 8, E and F. -/
theorem decode_spec (w : Word) : DecodesAsSpecified w (decode w) := by
  have hlt := (opField w).isLt
  have legal : ∀ k : Nat, (opField w).toNat = k → k ≠ 0x8 ∧ k ≠ 0xE ∧ k ≠ 0xF → ¬ IllegalWord w := by
    rintro k rfl ⟨h8, hE, hF⟩
    exact not_illegalWord_of_op h8 hE hF
  unfold decode
  split
  case h_1 hop =>
    obtain ⟨hwf, henc⟩ := decodeClass0_spec hop
    exact .ok (legal _ hop (by decide)) hwf henc
  case h_2 hop | h_3 hop | h_11 hop | h_12 hop => exact .ok (legal _ hop (by decide)) rfl (packNnn_of_op hop)
  case h_4 hop | h_5 hop | h_7 hop | h_8 hop | h_13 hop => exact .ok (legal _ hop (by decide)) rfl (packXkk_of_op hop)
  case h_6 hop | h_10 hop | h_14 hop => exact .ok (legal _ hop (by decide)) rfl (packXyn_of_op hop)
  case h_9 hop => exact decodeClass8_spec hop
  case h_15 hop => exact decodeClassE_spec hop
  case h_16 hop => exact decodeClassF_spec hop
  case h_17 =>
    simp only [imp_false] at *
    omega

/-! ### The statements -/

/-- Settles O1: the decoder reads the fields the encoder packed, and of class 0 a well-formed SYS is neither CLS nor RET. -/
theorem decodeOfEncodeIsTheInstruction : Obligations.DecodeOfEncodeIsTheInstruction := by
  intro i hwf
  cases i with
  | cls | ret => rfl
  | sys nnn =>
    obtain ⟨hcls, hret⟩ : nnn ≠ 0x0E0#12 ∧ nnn ≠ 0x0EE#12 := by simpa [Instr.wf] using hwf
    simp [encode, decode, decodeClass0, hcls, hret]
  | _ => simp [encode, decode, decodeClass8, decodeClassE, decodeClassF]

/-- Settles O2: a word that decodes is not refused, and the decoder keeps every field of it. -/
theorem encodeOfDecodeIsTheWord : Obligations.EncodeOfDecodeIsTheWord := by
  intro w i hdec
  rcases decode_spec w with ⟨-, herr⟩ | ⟨-, j, hok, hwf, henc⟩
  · rw [hdec] at herr
    cases herr
  · rw [hdec] at hok
    cases hok
    exact ⟨hwf, henc⟩

/-- Settles O3: the two answers of the decoder exclude each other, and which one it gives is whether the word is illegal. -/
theorem decoderRefusesExactlyTheIllegalWords : Obligations.DecoderRefusesExactlyTheIllegalWords := by
  intro w
  rcases decode_spec w with ⟨hill, herr⟩ | ⟨hleg, i, hok, -⟩
  · exact ⟨fun _ => herr, fun hleg => absurd hill hleg⟩
  · exact ⟨fun hill => absurd hill hleg, fun _ => ⟨i, hok⟩⟩

/-- Settles O4: each word is decoded by evaluation of its fields. -/
theorem writtenWordsDecodeAsTheSpecSays : Obligations.WrittenWordsDecodeAsTheSpecSays :=
  ⟨rfl, rfl, rfl, rfl, rfl, rfl, rfl, rfl, rfl, rfl, rfl, rfl, rfl, rfl⟩

end Sys2Proof
end

section
/-! The meanings that check nothing and stand in no section above, one equation each (spec/41_control_flow.md to
spec/44_display_keys_timers.md). -/

namespace Sys2Proof.Machine

section equations
variable (x y : RegIx) (n : Nibble) (kk : Byte) (s : State)

@[simp] theorem exec_seReg : exec (.seReg x y n) s = .next (s.skipIf (s.readV x == s.readV y)) := rfl
@[simp] theorem exec_sneReg : exec (.sneReg x y n) s = .next (s.skipIf (s.readV x != s.readV y)) := rfl
@[simp] theorem exec_addImm : exec (.addImm x kk) s = .next (s.setV x (s.readV x + kk)) := rfl
@[simp] theorem exec_orReg : exec (.orReg x y) s = .next (s.setV x (s.readV x ||| s.readV y)) := rfl
@[simp] theorem exec_andReg : exec (.andReg x y) s = .next (s.setV x (s.readV x &&& s.readV y)) := rfl
@[simp] theorem exec_xorReg : exec (.xorReg x y) s = .next (s.setV x (s.readV x ^^^ s.readV y)) := rfl
@[simp] theorem exec_addReg : exec (.addReg x y) s =
    .next ((s.setV x (s.readV x + s.readV y)).setVF (carryFlag (s.readV x) (s.readV y))) := rfl
@[simp] theorem exec_subReg : exec (.subReg x y) s =
    .next ((s.setV x (s.readV x - s.readV y)).setVF (noBorrowFlag (s.readV x) (s.readV y))) := rfl
@[simp] theorem exec_subnReg : exec (.subnReg x y) s =
    .next ((s.setV x (s.readV y - s.readV x)).setVF (noBorrowFlag (s.readV y) (s.readV x))) := rfl
@[simp] theorem exec_shr : exec (.shr x y) s =
    .next ((s.setV x (s.readV x >>> 1)).setVF (shiftRightFlag (s.readV x))) := rfl
@[simp] theorem exec_shl : exec (.shl x y) s =
    .next ((s.setV x (s.readV x <<< 1)).setVF (shiftLeftFlag (s.readV x))) := rfl
@[simp] theorem exec_rnd : exec (.rnd x kk) s = .next (s.countDraw.setV x (s.randomByte &&& kk)) := rfl
@[simp] theorem exec_ldVxK : exec (.ldVxK x) s = .next (s.startWait x) := rfl
@[simp] theorem exec_ldStVx : exec (.ldStVx x) s = .next (s.setST (s.readV x)) := rfl
@[simp] theorem exec_addIVx : exec (.addIVx x) s = .next (s.setI (s.I + zextByte (s.readV x))) := rfl
@[simp] theorem exec_ldFVx : exec (.ldFVx x) s = .next (s.setI (glyphAddress s.cfg (s.readV x))) := rfl

end equations
end Sys2Proof.Machine
end

section
/-! Proof of the statement about what an instruction may write (spec/10_state.md section 10). -/

namespace Sys2Proof.Machine

section keeps
variable {f : Footprint} {s t : State}

/-! ### The clauses of a footprint by name -/

theorem Footprint.Keeps.pc_eq (h : f.Keeps s t) : f.pc = false → t.pc = s.pc := h.2.2.1

theorem Footprint.Keeps.slot_eq (h : f.Keeps s t) :
    ∀ j : Fin 16, (f.slot = true → j.val ≠ s.sp.val) → t.stack[j] = s.stack[j] := h.2.2.2.2.1

theorem Footprint.Keeps.mem_eq (h : f.Keeps s t) : f.stored = 0 → t.mem = s.mem := by
  obtain ⟨-, -, -, -, -, -, -, -, hmem, -⟩ := h
  exact hmem

theorem Footprint.Keeps.faultRecord_eq (h : f.Keeps s t) :
    t.faultCode = s.faultCode ∧ t.faultPc = s.faultPc ∧ t.faultWord = s.faultWord := by
  obtain ⟨-, -, -, -, -, -, -, -, -, -, -, -, hcode, hpc, hword, -⟩ := h
  exact ⟨hcode, hpc, hword⟩

theorem Footprint.Keeps.keys_cfg_eq (h : f.Keeps s t) : t.keys = s.keys ∧ t.cfg = s.cfg := by
  obtain ⟨-, -, -, -, -, -, -, -, -, -, -, -, -, -, -, hkeys, hcfg, -⟩ := h
  exact ⟨hkeys, hcfg⟩

/-! ### What each update keeps

Each lemma adds one update to a state that already stays inside the footprint. -/

theorem Footprint.Keeps.refl (f : Footprint) (s : State) : f.Keeps s s := by simp [Footprint.Keeps]

theorem Footprint.Keeps.setV (h : f.Keeps s t) {x : RegIx} (hx : x ∈ f.v) (b : Byte) : f.Keeps s (t.setV x b) := by
  obtain ⟨hv, hrest⟩ := h
  refine ⟨fun r hr => ?_, hrest⟩
  have hne : r ≠ x := fun e => hr (e ▸ hx)
  rw [State.readV_setV, if_neg hne, hv r hr]

theorem Footprint.Keeps.setVF (h : f.Keeps s t) (hx : vfIx ∈ f.v) (b : Byte) : f.Keeps s (t.setVF b) := h.setV hx b

theorem Footprint.Keeps.setI (h : f.Keeps s t) (hI : f.I = true) (w : Word) : f.Keeps s (t.setI w) := by
  obtain ⟨hv, -, hrest⟩ := h
  exact ⟨hv, by simp [hI], hrest⟩

theorem Footprint.Keeps.setPc (h : f.Keeps s t) (hpc : f.pc = true) (w : Word) : f.Keeps s (t.setPc w) := by
  obtain ⟨hv, hI, -, hrest⟩ := h
  exact ⟨hv, hI, by simp [hpc], hrest⟩

theorem Footprint.Keeps.skipIf (h : f.Keeps s t) (hpc : f.pc = true) (c : Bool) : f.Keeps s (t.skipIf c) := by
  cases c with
  | false => exact h
  | true => exact h.setPc hpc _

theorem Footprint.Keeps.setDT (h : f.Keeps s t) (hdt : f.dt = true) (b : Byte) : f.Keeps s (t.setDT b) := by
  obtain ⟨hv, hI, hpc, hsp, hslot, -, hrest⟩ := h
  exact ⟨hv, hI, hpc, hsp, hslot, by simp [hdt], hrest⟩

theorem Footprint.Keeps.setST (h : f.Keeps s t) (hst : f.st = true) (b : Byte) : f.Keeps s (t.setST b) := by
  obtain ⟨hv, hI, hpc, hsp, hslot, hdt, -, hrest⟩ := h
  exact ⟨hv, hI, hpc, hsp, hslot, hdt, by simp [hst], hrest⟩

theorem Footprint.Keeps.setDisp (h : f.Keeps s t) (hdisp : f.disp = true) (d : Display) : f.Keeps s (t.setDisp d) := by
  obtain ⟨hv, hI, hpc, hsp, hslot, hdt, hst, hbytes, hmem, -, hrest⟩ := h
  exact ⟨hv, hI, hpc, hsp, hslot, hdt, hst, hbytes, hmem, by simp [hdisp], hrest⟩

theorem Footprint.Keeps.startWait (h : f.Keeps s t) (hawait : f.await = true) (x : RegIx) : f.Keeps s (t.startWait x) := by
  obtain ⟨hv, hI, hpc, hsp, hslot, hdt, hst, hbytes, hmem, hdisp, -, hrest⟩ := h
  exact ⟨hv, hI, hpc, hsp, hslot, hdt, hst, hbytes, hmem, hdisp, by simp [hawait], hrest⟩

theorem Footprint.Keeps.countDraw (h : f.Keeps s t) (hdraws : f.draws = true) : f.Keeps s t.countDraw := by
  obtain ⟨hv, hI, hpc, hsp, hslot, hdt, hst, hbytes, hmem, hdisp, hawait, -, hrest⟩ := h
  exact ⟨hv, hI, hpc, hsp, hslot, hdt, hst, hbytes, hmem, hdisp, hawait, by simp [hdraws], hrest⟩

/-- A store of the footprint's number of bytes at I stays inside it; the registers and memory's own form play no part. -/
theorem Footprint.keeps_writeBytes {bs : List Byte} (hpos : 0 < f.stored) (hlen : bs.length = f.stored) :
    f.Keeps s (s.writeBytes s.I.toNat bs) := by
  have hout : ∀ a, a < s.I.toNat ∨ s.I.toNat + f.stored ≤ a →
      (s.writeBytes s.I.toNat bs).readByte a = s.readByte a := by
    intro a ha
    exact s.readByte_writeBytes_outside (hlen ▸ ha)
  exact ⟨by simp, by simp, by simp, by simp, by simp, by simp, by simp, hout, by omega, by simp, by simp, by simp,
    by simp, by simp, by simp, by simp, by simp, by simp⟩

/-- A pop moves the depth and the program counter and keeps every slot (R28). -/
theorem Footprint.keeps_pop (hpc : f.pc = true) (hsp : f.sp = true) (w : Word) (n : Fin 17) :
    f.Keeps s { s with pc := w, sp := n } := by
  simp [Footprint.Keeps, State.readV, State.readByte, hpc, hsp]

/-- A push also writes the one slot at the old depth. -/
theorem Footprint.keeps_push (hpc : f.pc = true) (hsp : f.sp = true) (hslot : f.slot = true) (hlt : s.sp.val < 16)
    (a w : Word) (n : Fin 17) : f.Keeps s { s with pc := w, stack := s.stack.set s.sp.val a hlt, sp := n } := by
  have hstack : ∀ j : Fin 16, j.val ≠ s.sp.val → (s.stack.set s.sp.val a hlt)[j.val] = s.stack[j.val] := fun j hj =>
    Vector.getElem_set_ne hlt j.isLt hj.symm
  simpa [Footprint.Keeps, State.readV, State.readByte, hpc, hsp, hslot] using hstack

theorem Footprint.Keeps.setVs (h : f.Keeps s t) (k : Nat) {bs : List Byte}
    (hk : ∀ j < bs.length, BitVec.ofNat 4 (k + j) ∈ f.v) : f.Keeps s (t.setVs k bs) := by
  induction bs generalizing t k with
  | nil => exact h
  | cons b bs ih =>
    refine ih (h.setV (hk 0 (by simp)) b) (k + 1) fun j hj => ?_
    rw [Nat.add_assoc, Nat.add_comm 1 j]
    exact hk (j + 1) (by simpa using hj)

end keeps

/-! ### What each instruction keeps -/

theorem mem_regsUpTo {x : RegIx} {k : Nat} (hk : k < x.toNat + 1) : BitVec.ofNat 4 k ∈ regsUpTo x :=
  List.mem_map_of_mem (List.mem_range.mpr hk)

theorem exec_skp_next {x : RegIx} {s t : State} (h : exec (.skp x) s = .next t) : ∃ c, t = s.skipIf c := by
  rcases exec_skp_cases x s with ⟨-, k, -, he⟩ | ⟨-, -, he⟩ <;> rw [he] at h <;> cases h
  exact ⟨_, rfl⟩

theorem exec_sknp_next {x : RegIx} {s t : State} (h : exec (.sknp x) s = .next t) : ∃ c, t = s.skipIf c := by
  rcases exec_sknp_cases x s with ⟨-, k, -, he⟩ | ⟨-, -, he⟩ <;> rw [he] at h <;> cases h
  exact ⟨_, rfl⟩

/-- All that an instruction can do: stay inside its footprint, or raise an error at its own address (R12, R41). -/
theorem exec_keeps_or_raises {i : Instr} {s t : State} (h : exec i s = .next t) :
    (footprint i).Keeps s t ∨ ∃ e, t = s.latch e s.instrAddr (encode i) := by
  have start := Footprint.Keeps.refl (footprint i) s
  cases i
  case cls => cases h; exact .inl (start.setDisp rfl _)
  case sys => cases h; exact .inr ⟨_, rfl⟩
  case jp | jpV0 => cases h; exact .inl (start.setPc rfl _)
  case seImm | sneImm | seReg | sneReg => cases h; exact .inl (start.skipIf rfl _)
  case ldImm x _ | addImm x _ | ldReg x _ | orReg x _ | andReg x _ | xorReg x _ | ldVxDt x =>
    cases h
    exact .inl (start.setV (List.mem_singleton_self x) _)
  case addReg x _ | subReg x _ | shr x _ | subnReg x _ | shl x _ =>
    cases h
    exact .inl ((start.setV (x := x) (by simp [footprint]) _).setVF (by simp [footprint]) _)
  case ldI | addIVx | ldFVx => cases h; exact .inl (start.setI rfl _)
  case rnd x _ => cases h; exact .inl ((start.countDraw rfl).setV (List.mem_singleton_self x) _)
  case ldVxK => cases h; exact .inl (start.startWait rfl _)
  case ldDtVx => cases h; exact .inl (start.setDT rfl _)
  case ldStVx => cases h; exact .inl (start.setST rfl _)
  case ret =>
    rcases exec_ret_cases s with ⟨_, he⟩ | ⟨-, he⟩ <;> rw [he] at h <;> cases h
    · exact .inl (Footprint.keeps_pop rfl rfl _ _)
    · exact .inr ⟨_, rfl⟩
  case call nnn =>
    rcases exec_call_cases nnn s with ⟨hlt, he⟩ | ⟨-, he⟩ <;> rw [he] at h <;> cases h
    · exact .inl (Footprint.keeps_push rfl rfl rfl hlt _ _ _)
    · exact .inr ⟨_, rfl⟩
  case drw x y n =>
    rcases exec_drw_cases x y n s with ⟨-, he⟩ | ⟨-, -, he⟩ <;> rw [he] at h <;> cases h
    · exact .inl ((start.setDisp rfl _).setVF (List.mem_singleton_self vfIx) _)
    · exact .inr ⟨_, rfl⟩
  case skp => obtain ⟨c, rfl⟩ := exec_skp_next h; exact .inl (start.skipIf rfl c)
  case sknp => obtain ⟨c, rfl⟩ := exec_sknp_next h; exact .inl (start.skipIf rfl c)
  case ldBVx x =>
    rcases exec_ldBVx_cases x s with ⟨-, he⟩ | ⟨-, he⟩ <;> rw [he] at h <;> cases h
    · exact .inl (Footprint.keeps_writeBytes (Nat.succ_pos 2) rfl)
    · exact .inr ⟨_, rfl⟩
  case ldMemVx x =>
    rcases exec_ldMemVx_cases x s with ⟨-, he⟩ | ⟨-, he⟩ <;> rw [he] at h <;> cases h
    · exact .inl (Footprint.keeps_writeBytes (Nat.succ_pos _) (s.length_readVs x))
    · exact .inr ⟨_, rfl⟩
  case ldVxMem x =>
    rcases exec_ldVxMem_cases x s with ⟨-, he⟩ | ⟨-, he⟩ <;> rw [he] at h <;> cases h
    · refine .inl (start.setVs 0 fun j hj => ?_)
      rw [Nat.zero_add]
      exact mem_regsUpTo (by simpa using hj)
    · exact .inr ⟨_, rfl⟩

/-- Settles O17: an instruction stays inside its footprint, or it raised one of the errors, whose codes are not 0. -/
theorem instructionsStayInsideTheirFootprint : Obligations.InstructionsStayInsideTheirFootprint := by
  intro i s t h
  rcases exec_keeps_or_raises h with hk | ⟨e, rfl⟩
  · exact .inl hk
  · exact .inr ⟨e.code_ne.1, raised_latch s e s.instrAddr (encode i)⟩

end Sys2Proof.Machine
end

section
/-! Proofs of the statements about legal states (spec/10_state.md sections 2, 3 and 7, spec/60_exceptions.md section 2). -/

namespace Sys2Proof.Machine

/-! ### What an instruction writes to memory, to the stack and to PC -/

section bounds
variable {i : Instr} {s t : State}

theorem exec_mem_wf (h : exec i s = .next t) (hmem : Memory.wf s.cfg s.mem = true) : Memory.wf t.cfg t.mem = true := by
  rcases exec_keeps_or_raises h with hk | ⟨e, rfl⟩
  · cases i
    case ldBVx x =>
      rcases exec_ldBVx_cases x s with ⟨hle, he⟩ | ⟨-, he⟩ <;> rw [he] at h <;> cases h
      · exact State.writeBytes_wf hmem hle
      · exact hmem
    case ldMemVx x =>
      rcases exec_ldMemVx_cases x s with ⟨hle, he⟩ | ⟨-, he⟩ <;> rw [he] at h <;> cases h
      · exact State.writeBytes_wf hmem (by rwa [State.length_readVs])
      · exact hmem
    all_goals rwa [hk.keys_cfg_eq.2, hk.mem_eq rfl]
  · exact hmem

/-- A call is the one instruction that writes a slot, and what it pushes is PC (R143). -/
theorem exec_stack_le (h : exec i s = .next t) (hpc : s.pc.toNat ≤ 4096) (hstack : ∀ j : Fin 16, s.stack[j].toNat ≤ 4096)
    (j : Fin 16) : t.stack[j].toNat ≤ 4096 := by
  rcases exec_keeps_or_raises h with hk | ⟨e, rfl⟩
  · by_cases hj : (footprint i).slot = true → j.val ≠ s.sp.val
    · rw [hk.slot_eq j hj]
      exact hstack j
    · push Not at hj
      obtain ⟨hcall, hjsp⟩ := hj
      cases i
      case call nnn =>
        rcases exec_call_cases nnn s with ⟨hlt, he⟩ | ⟨-, he⟩ <;> rw [he] at h <;> cases h
        · simpa [hjsp] using hpc
        · exact hstack j
      all_goals cases hcall
  · exact hstack j

theorem toNat_zextAddr_lt (nnn : Addr12) : (zextAddr nnn).toNat < 4096 := by
  rw [zextAddr, BitVec.toNat_setWidth]
  have := nnn.isLt
  omega

theorem State.toNat_pc_skipIf_le (s : State) (c : Bool) : (s.skipIf c).pc.toNat ≤ s.pc.toNat + 2 := by
  cases c with
  | false => simp
  | true => simpa using Nat.mod_le (s.pc.toNat + 2) 65536

/-- PC after an instruction: at most 0x10FE, the target of Bnnn with the largest operands (R27, R148). -/
theorem exec_pc_le (h : exec i s = .next t) (hlo : 2 ≤ s.pc.toNat) (hhi : s.pc.toNat ≤ 4096)
    (hstack : ∀ j : Fin 16, s.stack[j].toNat ≤ 4096) : t.pc.toNat ≤ 0x10FE := by
  have haddr : s.instrAddr.toNat ≤ 0x10FE := by
    rw [State.instrAddr, BitVec.toNat_sub_of_le (by simpa [BitVec.le_def] using hlo)]
    exact (Nat.sub_le _ _).trans (hhi.trans (by decide))
  rcases exec_keeps_or_raises h with hk | ⟨e, rfl⟩
  · cases i
    case jp nnn =>
      cases h
      exact (toNat_zextAddr_lt nnn).le.trans (by decide)
    case jpV0 nnn =>
      cases h
      have hsum := toNat_indexedTarget nnn (s.readV 0#4)
      have := nnn.isLt
      have := (s.readV 0#4).isLt
      simp only [State.setPc_pc, hsum]
      omega
    case seImm | sneImm | seReg | sneReg =>
      cases h
      exact (s.toNat_pc_skipIf_le _).trans (by omega)
    case skp => obtain ⟨c, rfl⟩ := exec_skp_next h; exact (s.toNat_pc_skipIf_le c).trans (by omega)
    case sknp => obtain ⟨c, rfl⟩ := exec_sknp_next h; exact (s.toNat_pc_skipIf_le c).trans (by omega)
    case ret =>
      rcases exec_ret_cases s with ⟨hsp, he⟩ | ⟨-, he⟩ <;> rw [he] at h <;> cases h
      · exact (hstack ⟨s.sp.val - 1, by omega⟩).trans (by decide)
      · exact haddr
    case call nnn =>
      rcases exec_call_cases nnn s with ⟨_, he⟩ | ⟨-, he⟩ <;> rw [he] at h <;> cases h
      · exact (toNat_zextAddr_lt nnn).le.trans (by decide)
      · exact haddr
    all_goals
      rw [hk.pc_eq rfl]
      omega
  · exact haddr

end bounds

/-! ### Legal states -/

/-- A legal state that runs an instruction gives a legal state: the fault record changes only by an error, and an error raised by a
running core comes with no wait (R271). -/
theorem exec_legal {i : Instr} {s t : State} (hs : s.Legal) (hrun : s.Running) (hlo : 2 ≤ s.pc.toNat)
    (hhi : s.pc.toNat ≤ 4096) (h : exec i s = .next t) : t.Legal := by
  have hpc := exec_pc_le h hlo hhi hs.stack
  obtain ⟨hfault, hwait⟩ := hrun
  rcases exec_keeps_or_raises h with hk | ⟨e, rfl⟩
  · obtain ⟨hcode, hfpc, hfword⟩ := hk.faultRecord_eq
    exact {
      cfg := hk.keys_cfg_eq.2 ▸ hs.cfg
      mem := exec_mem_wf h hs.mem
      pc := hpc
      stack := exec_stack_le h hhi hs.stack
      wait := fun _ => hcode.trans hfault
      noFault := fun _ => hfpc ▸ hfword ▸ hs.noFault hfault
      fault := fun hne => absurd (hcode.trans hfault) hne }
  · exact hs.latch e _ hpc hwait

theorem State.Legal.advance {s : State} (h : s.Legal) (hpc : s.pc.toNat + 1 ≤ 4095) (hfault : s.faultCode = 0#3) :
    s.advance.Legal :=
  ⟨h.cfg, h.mem, by simp only [State.advance_pc, BitVec.toNat_add]; simp; omega, h.stack, h.wait, h.noFault,
    fun hne => absurd hfault hne⟩

theorem executeOne_legal {s t : State} (hs : s.Legal) (h : executeOne s = .next t) : t.Legal := by
  rcases executeOne_cases s with ⟨-, he⟩ | ⟨-, -, he⟩ | ⟨-, hwait, -, he⟩ | ⟨-, hwait, w, e, -, -, he⟩ |
      ⟨hfault, hwait, w, i, hfetch, -, he⟩ <;> rw [he] at h
  · cases h; exact hs
  · cases h; exact hs
  · cases h; exact hs.latch _ _ hs.pc hwait
  · cases h; exact hs.latch _ _ hs.pc hwait
  · rcases s.fetch_cases with ⟨hpc, -⟩ | ⟨-, hnone⟩
    · have hadv : s.advance.pc.toNat = s.pc.toNat + 2 := by
        simp only [State.advance_pc, BitVec.toNat_add]; simp; omega
      exact exec_legal (hs.advance hpc hfault) ⟨hfault, hwait⟩ (by omega) (by omega) h
    · rw [hfetch] at hnone
      cases hnone

theorem tickTimers_legal {s : State} (hs : s.Legal) : (tickTimers s).Legal :=
  ⟨hs.cfg, hs.mem, hs.pc, hs.stack, hs.wait, hs.noFault, hs.fault⟩

theorem setKey_legal {s : State} (hs : s.Legal) (k : Key) (p : Bool) : (setKey k p s).Legal := by
  rcases setKey_cases k p s with ⟨-, -, -, he⟩ | ⟨-, he⟩ <;> rw [he]
  · exact ⟨hs.cfg, hs.mem, hs.pc, hs.stack, fun hw => by simp at hw, hs.noFault, hs.fault⟩
  · exact ⟨hs.cfg, hs.mem, hs.pc, hs.stack, hs.wait, hs.noFault, hs.fault⟩

theorem loadProgram_legal {s : State} (hs : s.Legal) (image : Image) : (loadProgram image s).Legal := by
  have hmem := loadProgram_wf hs.mem image
  rcases loadProgram_cases image s with ⟨-, -, he⟩ | ⟨-, -, he⟩ <;> rw [he] at hmem ⊢
  · rw [State.writeBytes_eq] at hmem ⊢
    exact ⟨hs.cfg, hmem, hs.pc, hs.stack, hs.wait, hs.noFault, hs.fault⟩
  · exact hs

/-- Reset keeps of the old state only what the parameters' clause speaks of (R301, D27). -/
theorem hostReset_legal {s : State} (hcfg : s.cfg.wf = true) : (hostReset s).Legal where
  cfg := hcfg
  mem := rfl
  pc := by change (0x0200#16).toNat ≤ 0x10FE; decide
  stack := fun j => by simp [hostReset, State.reset]
  wait := fun hw => by cases hw
  noFault := fun _ => ⟨rfl, rfl⟩
  fault := fun hne => absurd rfl hne

/-- Settles O18: each of the host's five operations keeps a legal state legal. -/
theorem stepKeepsTheStateLegal : Obligations.StepKeepsTheStateLegal := by
  intro s t hs h
  have hs' := hs.takeOp
  rcases step_cases s with ⟨-, he⟩ | ⟨-, he⟩ | ⟨k, p, -, he⟩ | ⟨image, -, he⟩ | ⟨-, he⟩ <;> rw [he] at h
  · exact executeOne_legal hs' h
  · cases h; exact tickTimers_legal hs'
  · cases h; exact setKey_legal hs' k p
  · cases h; exact loadProgram_legal hs' image
  · cases h; exact hostReset_legal hs'.cfg

/-- Settles O19: the constructed state is the reset of itself, and its parameters obey their bound. -/
theorem resetStateIsLegal : Obligations.ResetStateIsLegal := hostReset_legal (s := State.reset) (by decide)

end Sys2Proof.Machine
end

section
/-! Proofs of the statements about `execute_one` and about every step (spec/40_cycle.md, spec/60_exceptions.md sections 2 and 8). -/

namespace Sys2Proof.Machine

/-! ### `execute_one` on a running core -/

theorem State.fetch_eq_none {s : State} (hpc : 4095 < s.pc.toNat + 1) : s.fetch = none := by
  rcases s.fetch_cases with ⟨hin, -⟩ | ⟨-, hnone⟩
  · omega
  · exact hnone

/-- Beyond the last word a running core raises `OutOfBoundsFetch` (R123). -/
theorem executeOne_beyond {s : State} (hrun : s.Running) (hpc : 4095 < s.pc.toNat + 1) :
    executeOne s = .next (s.latch .outOfBoundsFetch s.pc 0x0000#16) := by
  obtain ⟨hfault, hwait⟩ := hrun
  simpa [hfault, hwait, State.fetch_eq_none hpc] using executeOne_cases s

/-- Elsewhere it raises `InvalidOpcode` for an illegal word, and runs the instruction of any other (R122). -/
theorem executeOne_fetchable_cases {s : State} (hrun : s.Running) (hpc : s.pc.toNat + 1 ≤ 4095) :
    (IllegalWord s.wordAtPc ∧ executeOne s = .next (s.latch .invalidOpcode s.pc s.wordAtPc)) ∨
      (¬ IllegalWord s.wordAtPc ∧ ∃ i, encode i = s.wordAtPc ∧ executeOne s = exec i s.advance) := by
  have hfetch := State.fetch_eq_wordAtPc hpc
  rcases decode_spec s.wordAtPc with ⟨hill, herr⟩ | ⟨hleg, i, hok, -, henc⟩
  · obtain ⟨hfault, hwait⟩ := hrun
    exact .inl ⟨hill, by simpa [hfault, hwait, hfetch, herr] using executeOne_cases s⟩
  · exact .inr ⟨hleg, i, henc, executeOne_eq_exec hrun hfetch hok⟩

theorem executeOne_of_fault {s : State} (hfault : s.faultCode ≠ 0#3) : executeOne s = .next s := by
  simpa [hfault] using executeOne_cases s

theorem executeOne_of_wait {s : State} (hfault : s.faultCode = 0#3) (hwait : s.awaiting = true) :
    executeOne s = .next s := by
  simpa [hfault, hwait] using executeOne_cases s

/-! ### What `execute_one` and the host's other operations leave as it was -/

/-- The core reads the keys and the parameters and writes neither (R33, R231). -/
theorem executeOne_keys_cfg {s t : State} (h : executeOne s = .next t) : t.keys = s.keys ∧ t.cfg = s.cfg := by
  rcases executeOne_cases s with ⟨-, he⟩ | ⟨-, -, he⟩ | ⟨-, -, -, he⟩ | ⟨-, -, w, e, -, -, he⟩ |
      ⟨-, -, w, i, -, -, he⟩ <;> rw [he] at h
  case inr.inr.inr.inr =>
    rcases exec_keeps_or_raises h with hk | ⟨e, rfl⟩
    · exact hk.keys_cfg_eq
    · exact ⟨rfl, rfl⟩
  all_goals
    cases h
    exact ⟨rfl, rfl⟩

theorem setKey_eq (k : Key) (p : Bool) (s : State) : setKey k p s =
    { s with v := (setKey k p s).v, keys := s.keys.set k.toNat p k.isLt, awaiting := (setKey k p s).awaiting } := by
  rcases setKey_cases k p s with ⟨-, -, -, he⟩ | ⟨-, he⟩ <;> rw [he] <;> rfl

theorem loadProgram_eq (image : Image) (s : State) :
    loadProgram image s = { s with mem := (loadProgram image s).mem } := by
  rcases loadProgram_cases image s with ⟨-, -, he⟩ | ⟨-, -, he⟩ <;> rw [he]
  exact State.writeBytes_eq s _ _

/-! ### The statements about one `execute_one` -/

/-- Code 5 is that of a fetch beyond memory and of no other error (R260). -/
theorem CoreError.eq_of_code_five {e : CoreError} : e.code = 5#3 → e = .outOfBoundsFetch := by
  cases e <;> decide

/-- Settles O6: beyond address 4094 the fetch fails; up to it the codes that can be latched are those of a word or of an
instruction, and neither is 5. -/
theorem fetchRaisesExactlyBeyondTheLastWord : Obligations.FetchRaisesExactlyBeyondTheLastWord := by
  intro s hop hrun
  have hrun' : s.takeOp.Running := s.running_takeOp.mpr hrun
  rw [step_eq_executeOne hop]
  refine ⟨fun hout => ⟨_, executeOne_beyond hrun' hout, raised_latch _ _ _ _⟩, fun hin t h => ?_⟩
  rcases executeOne_fetchable_cases hrun' hin with ⟨-, he⟩ | ⟨-, i, -, he⟩ <;> rw [he] at h
  · cases h
    exact (by decide : CoreError.invalidOpcode.code ≠ 5#3)
  · rcases exec_faultRecord_cases h with ⟨hcode, -⟩ | ⟨e, rfl, hfetch, -⟩
    · rw [hcode, State.advance_faultCode, hrun'.1]
      decide
    · exact fun hcode => hfetch (CoreError.eq_of_code_five hcode)

/-- Settles O7: the decoder refuses the illegal word, and the step latches that with the word and its address. -/
theorem illegalWordRaisesInvalidOpcode : Obligations.IllegalWordRaisesInvalidOpcode := by
  intro s hop hrun hpc hill
  rw [step_eq_executeOne hop]
  rcases executeOne_fetchable_cases (s.running_takeOp.mpr hrun) hpc with ⟨-, he⟩ | ⟨hleg, -⟩
  · exact ⟨_, he, raised_latch _ _ _ _⟩
  · exact absurd hill hleg

/-- Settles O8: a latched core steps to itself and returns the code it holds. -/
theorem latchedFaultIsReturnedAndNothingChanges : Obligations.LatchedFaultIsReturnedAndNothingChanges := by
  intro s hop hfault
  exact ⟨(step_eq_executeOne hop).trans (executeOne_of_fault hfault), if_pos hfault⟩

/-- Settles O9: a waiting core steps to itself and returns `Waiting`. -/
theorem waitingCoreChangesNothing : Obligations.WaitingCoreChangesNothing := by
  intro s hop hfault hwait
  exact ⟨(step_eq_executeOne hop).trans (executeOne_of_wait hfault hwait), by simp [stepResult, hfault, hwait]⟩

/-- Settles O10: without a fault after it the instruction was fetched, so the result and the record name the word at PC. -/
theorem executedResultAndTraceNameTheWord : Obligations.ExecutedResultAndTraceNameTheWord := by
  intro s t hrun h ht
  have hpc : s.pc.toNat + 1 ≤ 4095 := by
    by_contra hout
    rw [executeOne_beyond hrun (by omega)] at h
    cases h
    exact absurd ht (CoreError.code_ne .outOfBoundsFetch).1
  have hresult : stepResult s = some (.executed s.wordAtPc) := by
    obtain ⟨hfault, hwait⟩ := hrun
    simp [stepResult, hfault, hwait, h, ht, State.fetch_eq_wordAtPc hpc]
  exact ⟨hresult, fun htrace => by simp [traceRecord, htrace, hresult, h], fun htrace => by simp [traceRecord, htrace]⟩

/-! ### The statements about every step -/

/-- An `execute_one` that latches a fault puts PC back and writes the record, with the word it fetched (R126, R267). -/
theorem executeOne_precise {s t : State} (h : executeOne s = .next t) (hs : s.faultCode = 0#3) (ht : t.faultCode ≠ 0#3) :
    ∃ e : CoreError, t = s.latch e s.pc (if s.pc.toNat ≤ 4094 then s.wordAtPc else 0x0000#16) := by
  have hwait : s.awaiting = false := by
    by_contra hw
    rw [executeOne_of_wait hs (by simpa using hw)] at h
    cases h
    exact ht hs
  by_cases hpc : s.pc.toNat ≤ 4094
  · rw [if_pos hpc]
    rcases executeOne_fetchable_cases ⟨hs, hwait⟩ (by omega) with ⟨-, he⟩ | ⟨-, i, henc, he⟩ <;> rw [he] at h
    · cases h
      exact ⟨_, rfl⟩
    · rcases exec_faultRecord_cases h with ⟨hcode, -⟩ | ⟨e, rfl, -⟩
      · exact absurd (hcode.trans hs) ht
      · rw [State.instrAddr_advance, henc]
        exact ⟨e, rfl⟩
  · rw [if_neg hpc]
    rw [executeOne_beyond ⟨hs, hwait⟩ (by omega)] at h
    cases h
    exact ⟨_, rfl⟩

/-- Settles O11: the host's other operations latch nothing, and what `execute_one` latches it latches precisely. -/
theorem errorsArePrecise : Obligations.ErrorsArePrecise := by
  intro s t h hs ht
  rcases step_cases s with ⟨hop, he⟩ | ⟨-, he⟩ | ⟨k, p, -, he⟩ | ⟨image, -, he⟩ | ⟨-, he⟩ <;> rw [he] at h
  · obtain ⟨e, rfl⟩ := executeOne_precise h hs ht
    exact ⟨hop, rfl⟩
  · cases h; exact absurd hs ht
  · cases h; rw [setKey_eq] at ht; exact absurd hs ht
  · cases h; rw [loadProgram_eq] at ht; exact absurd hs ht
  · cases h; exact absurd rfl ht

/-- Settles O12: a latched core steps to itself, and a tick, a key event and a load write neither PC nor the fault record. -/
theorem onlyResetClearsALatchedFault : Obligations.OnlyResetClearsALatchedFault := by
  intro s t h hs hreset
  rcases step_cases s with ⟨-, he⟩ | ⟨-, he⟩ | ⟨k, p, -, he⟩ | ⟨image, -, he⟩ | ⟨hop, -⟩
  · rw [he, executeOne_of_fault (s := s.takeOp) hs] at h
    cases h
    exact ⟨rfl, rfl, rfl, rfl⟩
  · rw [he] at h
    cases h
    exact ⟨rfl, rfl, rfl, rfl⟩
  · rw [he, setKey_eq] at h
    cases h
    exact ⟨rfl, rfl, rfl, rfl⟩
  · rw [he, loadProgram_eq] at h
    cases h
    exact ⟨rfl, rfl, rfl, rfl⟩
  · exact absurd hop hreset

/-- A waiting core goes on waiting through an `execute_one`, with a fault latched or without one (R271, R283). -/
theorem executeOne_of_awaiting {s : State} (hwait : s.awaiting = true) : executeOne s = .next s := by
  by_cases hfault : s.faultCode = 0#3
  · exact executeOne_of_wait hfault hwait
  · exact executeOne_of_fault hfault

/-- Settles O13: of the operations that are not reset, only a key event writes AWAIT, and only on a press transition. -/
theorem onlyAKeyPressOrResetEndsTheWait : Obligations.OnlyAKeyPressOrResetEndsTheWait := by
  intro s t h hs ht
  rcases step_cases s with ⟨-, he⟩ | ⟨-, he⟩ | ⟨k, p, hop, he⟩ | ⟨image, -, he⟩ | ⟨hop, -⟩
  · rw [he, executeOne_of_awaiting (s := s.takeOp) hs] at h
    cases h
    cases hs.symm.trans ht
  · rw [he] at h
    cases h
    cases hs.symm.trans ht
  · rcases setKey_cases k p s.takeOp with ⟨-, rfl, hkey, -⟩ | ⟨-, hsame⟩
    · exact .inr ⟨k, hop, hkey⟩
    · rw [he, hsame] at h
      cases h
      cases hs.symm.trans ht
  · rw [he, loadProgram_eq] at h
    cases h
    cases hs.symm.trans ht
  · exact .inl hop

/-- Settles O14: of the five operations only a key event writes KEYS, and it writes its own key. -/
theorem onlySetKeyChangesTheKeys : Obligations.OnlySetKeyChangesTheKeys := by
  intro s t h ht
  rcases step_cases s with ⟨-, he⟩ | ⟨-, he⟩ | ⟨k, p, hop, he⟩ | ⟨image, -, he⟩ | ⟨-, he⟩ <;> rw [he] at h
  · exact absurd (executeOne_keys_cfg h).1 ht
  · cases h; exact absurd rfl ht
  · cases h
    refine ⟨k, p, hop, fun j hj => ?_⟩
    have hkeys : (setKey k p s.takeOp).keys = (s.takeOp.writeKey k p).keys := by rw [setKey_eq]; rfl
    rw [State.keyPressed_congr hkeys, State.keyPressed_writeKey, if_neg hj]
    rfl
  · rw [loadProgram_eq] at h; cases h; exact absurd rfl ht
  · cases h; exact absurd rfl ht

/-- Settles O15: no operation of the host, and no instruction, writes the parameters. -/
theorem parametersNeverChange : Obligations.ParametersNeverChange := by
  intro s t h
  rcases step_cases s with ⟨-, he⟩ | ⟨-, he⟩ | ⟨k, p, -, he⟩ | ⟨image, -, he⟩ | ⟨-, he⟩ <;> rw [he] at h
  · exact (executeOne_keys_cfg h).2
  · cases h; rfl
  · rw [setKey_eq] at h; cases h; rfl
  · rw [loadProgram_eq] at h; cases h; rfl
  · cases h; rfl

/-- The one refusal of the model is that of SKP and SKNP under `Refuse` (R235). -/
theorem exec_total (i : Instr) {s : State} (hlow : s.cfg.keyIndexHigh = .lowNibble) : ∃ t, exec i s = .next t := by
  cases i
  case ret => rcases exec_ret_cases s with ⟨_, he⟩ | ⟨-, he⟩ <;> exact ⟨_, he⟩
  case call nnn => rcases exec_call_cases nnn s with ⟨_, he⟩ | ⟨-, he⟩ <;> exact ⟨_, he⟩
  case drw x y n => rcases exec_drw_cases x y n s with ⟨-, he⟩ | ⟨-, -, he⟩ <;> exact ⟨_, he⟩
  case ldBVx x => rcases exec_ldBVx_cases x s with ⟨-, he⟩ | ⟨-, he⟩ <;> exact ⟨_, he⟩
  case ldMemVx x => rcases exec_ldMemVx_cases x s with ⟨-, he⟩ | ⟨-, he⟩ <;> exact ⟨_, he⟩
  case ldVxMem x => rcases exec_ldVxMem_cases x s with ⟨-, he⟩ | ⟨-, he⟩ <;> exact ⟨_, he⟩
  case skp x =>
    rcases exec_skp_cases x s with ⟨-, k, -, he⟩ | ⟨-, hrefuse, -⟩
    · exact ⟨_, he⟩
    · cases hlow.symm.trans hrefuse
  case sknp x =>
    rcases exec_sknp_cases x s with ⟨-, k, -, he⟩ | ⟨-, hrefuse, -⟩
    · exact ⟨_, he⟩
    · cases hlow.symm.trans hrefuse
  all_goals exact ⟨_, rfl⟩

/-- Settles O16: every operation but `execute_one` has its next state, and `execute_one` refuses only where an instruction does. -/
theorem everyStepHasANextState : Obligations.EveryStepHasANextState := by
  intro s hlow
  rcases step_cases s with ⟨-, he⟩ | ⟨-, he⟩ | ⟨k, p, -, he⟩ | ⟨image, -, he⟩ | ⟨-, he⟩ <;> rw [he]
  case inl =>
    rcases executeOne_cases s.takeOp with ⟨-, he⟩ | ⟨-, -, he⟩ | ⟨-, -, -, he⟩ | ⟨-, -, w, e, -, -, he⟩ |
        ⟨-, -, w, i, -, -, he⟩ <;> rw [he]
    case inr.inr.inr.inr => exact exec_total i (s := s.takeOp.advance) hlow
    all_goals exact ⟨_, rfl⟩
  all_goals exact ⟨_, rfl⟩

end Sys2Proof.Machine
end

section
/-! Proof of the statement about canonical memory (spec/20_memory.md section 1, assumption 6). -/

namespace Sys2Proof.Machine

/-- In canonical form a cell is listed exactly where it does not hold its reset value, and then with the value it holds. -/
theorem memFind_eq_of_wf {cfg : Config} {lo a : Nat} {m : Memory} (h : memWfFrom cfg lo m = true) :
    memFind m a = if cellValue cfg m a = initialByte cfg a then none else some (cellValue cfg m a) := by
  unfold cellValue
  cases hf : memFind m a with
  | none => simp
  | some b =>
    obtain ⟨-, -, hne⟩ := memFind_some_of_wf h hf
    simp [hne]

theorem memFind_beyond {cfg : Config} {lo a : Nat} {m : Memory} (h : memWfFrom cfg lo m = true) (ha : memSize ≤ a) :
    memFind m a = none := by
  cases hf : memFind m a with
  | none => rfl
  | some b =>
    obtain ⟨-, hlt, -⟩ := memFind_some_of_wf h hf
    omega

theorem memFind_head (k : Nat) (b : Byte) (m : Memory) : memFind ((k, b) :: m) k = some b := if_pos rfl

/-- Two canonical lists that list the same cells are equal: each begins at its lowest address. -/
theorem memory_ext {cfg : Config} {lo : Nat} {m n : Memory} (hm : memWfFrom cfg lo m = true)
    (hn : memWfFrom cfg lo n = true) (h : ∀ a, memFind m a = memFind n a) : m = n := by
  induction m generalizing lo n with
  | nil =>
    cases n with
    | nil => rfl
    | cons q n => simpa [memFind, memFind_head] using h q.1
  | cons p m ih =>
    obtain ⟨k, b⟩ := p
    cases n with
    | nil => simpa [memFind, memFind_head] using h k
    | cons q n =>
      obtain ⟨j, c⟩ := q
      simp only [memWfFrom, Bool.and_eq_true, decide_eq_true_eq] at hm hn
      obtain ⟨⟨⟨-, -⟩, -⟩, hm⟩ := hm
      obtain ⟨⟨⟨-, -⟩, -⟩, hn⟩ := hn
      have hkj : k = j := by
        by_contra hne
        rcases Nat.lt_or_gt_of_ne hne with hlt | hlt
        · have := h k
          rw [memFind_head, memFind, if_neg (Ne.symm hne), memFind_below hn (by omega)] at this
          cases this
        · have := h j
          rw [memFind_head, memFind, if_neg hne, memFind_below hm (by omega)] at this
          cases this
      subst hkj
      have hbc : b = c := by simpa [memFind_head] using h k
      have htail : m = n := by
        refine ih hm hn fun a => ?_
        by_cases ha : k = a
        · rw [memFind_below hm (by omega), memFind_below hn (by omega)]
        · simpa [memFind, ha] using h a
      rw [hbc, htail]

/-- Settles O20: equal cells are listed alike, so the two canonical lists are the same. -/
theorem canonicalMemoriesWithEqualCellsAreEqual : Obligations.CanonicalMemoriesWithEqualCellsAreEqual := by
  intro s t hcfg hs ht h
  rw [hcfg] at ht
  refine memory_ext ht hs fun a => ?_
  by_cases ha : a < 4096
  · have hcell : cellValue s.cfg t.mem a = cellValue s.cfg s.mem a := by
      simpa [State.readByte_eq, hcfg] using h a ha
    rw [memFind_eq_of_wf ht, memFind_eq_of_wf hs, hcell]
  · rw [memFind_beyond ht (Nat.not_lt.mp ha), memFind_beyond hs (Nat.not_lt.mp ha)]

end Sys2Proof.Machine
end

section
/-! Proofs of the statements about construction, reset, load, tick and keys (spec/10_state.md section 9,
spec/70_reset_and_hazards.md, spec/60_exceptions.md section 6, spec/44_display_keys_timers.md). -/

namespace Sys2Proof.Machine

theorem step_eq_perform {s : State} {op : HostOp} (hop : s.nextOp = op) : step s = perform op s.takeOp := hop ▸ rfl

/-! ### The reset contents -/

theorem initialByte_font (cfg : Config) (k : Fin 80) : initialByte cfg (cfg.fontBase.toNat + k.val) = cfg.fontData[k] := by
  simp [initialByte]

theorem initialByte_outside (cfg : Config) {a : Nat} (ha : a < cfg.fontBase.toNat ∨ cfg.fontBase.toNat + 80 ≤ a) :
    initialByte cfg a = 0#8 := dif_neg (by omega)

@[simp] theorem readV_reset (r : RegIx) : State.reset.readV r = 0#8 := by simp [State.readV, State.reset]

@[simp] theorem getElem_stack_reset (j : Fin 16) : State.reset.stack[j] = 0x0000#16 := by simp [State.reset]

@[simp] theorem keyPressed_reset (k : Key) : State.reset.keyPressed k = false := by simp [State.keyPressed, State.reset]

/-- Settles O21: the constructed state has nothing listed in memory, so every cell reads as its reset value. -/
theorem constructedStateIsTheTable : Obligations.ConstructedStateIsTheTable :=
  ⟨readV_reset, rfl, rfl, rfl, getElem_stack_reset, rfl, rfl, keyPressed_reset, pixel_blankDisplay, rfl, rfl, rfl, rfl, rfl,
    initialByte_font State.reset.cfg, fun _ => initialByte_outside State.reset.cfg⟩

/-- Settles O22: reset gives the constructed state again, with the parameters and the keys of the state before it. -/
theorem resetReproducesTheConstructedState : Obligations.ResetReproducesTheConstructedState := fun s hop =>
  ⟨_, step_eq_perform hop, readV_reset, rfl, rfl, rfl, getElem_stack_reset, rfl, rfl, rfl, pixel_blankDisplay, rfl, rfl, rfl, rfl,
    rfl, initialByte_font s.cfg, fun _ => initialByte_outside s.cfg, rfl⟩

/-! ### Loading an image -/

/-- Settles O23: an image that fits is one block write at 0x200, which ends within memory. -/
theorem loadProgramCopiesTheImage : Obligations.LoadProgramCopiesTheImage := by
  intro s image hop hmem
  have hstep : step s = .next (loadProgram image s.takeOp) := step_eq_perform hop
  rcases loadProgram_cases image s.takeOp with ⟨hle, hres, he⟩ | ⟨hgt, hres, he⟩ <;> rw [hstep, he]
  · have hend : 0x200 + image.toBytes.length ≤ memSize := Nat.add_le_add_left hle 0x200
    exact ⟨fun _ => ⟨hres, _, rfl, storedBytes_writeBytes (s := s.takeOp) hmem hend⟩,
      fun hgt => absurd hle (Nat.not_le.mpr hgt)⟩
  · exact ⟨fun hle => absurd hle (Nat.not_le.mpr hgt), fun _ => ⟨hres, rfl⟩⟩

/-- Settles O24: the image of the words is copied, and its bytes are the two halves of each word, the high one first. -/
theorem loadedWordsAreStoredHighByteFirst : Obligations.LoadedWordsAreStoredHighByteFirst := by
  intro s ws hop hmem
  have hlen := Image.length_toBytes_words ws
  obtain ⟨hfits, hlong⟩ := loadProgramCopiesTheImage s (.words ws) hop hmem
  refine ⟨fun hle => ?_, fun hgt => hlong (by omega)⟩
  obtain ⟨hres, t, ht, hin, hout, hV, hframe⟩ := hfits (by omega)
  refine ⟨hres, t, ht, fun j hj => ?_, fun a ha => hout a (by omega), hV, hframe⟩
  obtain ⟨hhigh, hlow⟩ := Image.getElem_toBytes_words ws j hj
  rw [List.getElem?_eq_some_iff] at hhigh hlow
  obtain ⟨hj0, hhigh⟩ := hhigh
  obtain ⟨hj1, hlow⟩ := hlow
  rw [hin _ hj0, hhigh, Nat.add_assoc, hin _ hj1, hlow]
  exact ⟨toNat_highByte _, toNat_lowByte _⟩

/-! ### Ticks, keys and the sound output -/

/-- Settles O25: a tick writes the two timers, each with one less or 0. -/
theorem tickCountsBothTimersDownToZero : Obligations.TickCountsBothTimersDownToZero := fun s hop =>
  ⟨_, step_eq_perform hop, toNat_tickByte s.dt, toNat_tickByte s.st, rfl, SameBytes.of_mem rfl rfl⟩

/-- Settles O26: a key event writes its key, and where it ends a wait also the one register that waited. -/
theorem setKeyWritesTheKeyAndEndsAWaitOnAPress : Obligations.SetKeyWritesTheKeyAndEndsAWaitOnAPress := by
  intro s k p hop
  have hkeys : (setKey k p s.takeOp).keys = (s.takeOp.writeKey k p).keys := by rw [setKey_eq]; rfl
  refine ⟨_, step_eq_perform hop, ?_, fun j hj => ?_, ?_⟩
  · rw [State.keyPressed_congr hkeys, State.keyPressed_writeKey, if_pos rfl]
  · rw [State.keyPressed_congr hkeys, State.keyPressed_writeKey, if_neg hj]
    rfl
  · rcases setKey_cases k p s.takeOp with ⟨hwait, hp, hkey, he⟩ | ⟨hno, he⟩ <;> rw [he]
    · refine ⟨fun _ _ _ => ⟨rfl, ?_, fun r hr => ?_, rfl⟩, fun hno => absurd ⟨hwait, hp, hkey⟩ hno⟩
      · have := k.isLt
        simp
        omega
      · simp [hr]
    · exact ⟨fun hwait hp hkey => absurd ⟨hwait, hp, hkey⟩ hno, fun _ => rfl⟩

/-- The sound output of a state by its timer as a number (R42). -/
theorem soundActive_iff (s : State) : soundActive s = true ↔ 0 < s.st.toNat := by
  rw [soundActive, bne_iff_ne, ne_eq, ← BitVec.toNat_inj, Nat.pos_iff_ne_zero]
  rfl

/-- Settles O27: a byte is not 0 exactly where its number is above 0. -/
theorem soundIsActiveExactlyWhileTheSoundTimerRuns : Obligations.SoundIsActiveExactlyWhileTheSoundTimerRuns := soundActive_iff

end Sys2Proof.Machine
end

section
/-! Proofs of the statements about the call stack, SYS and the register skips (spec/41_control_flow.md). -/

namespace Sys2Proof.Machine

/-- An error raised by an instruction, with the instruction's word given as a number (R12, R267). -/
theorem raised_of_word (s : State) (e : CoreError) {i : Instr} {n : Nat} (hn : (encode i).toNat = n) :
    Raised s (s.latch e s.instrAddr (encode i)) e.code (s.pc - 2#16) (BitVec.ofNat 16 n) := by
  subst hn
  rw [BitVec.ofNat_toNat, BitVec.setWidth_eq]
  exact raised_latch s e s.instrAddr (encode i)

theorem toNat_encode_sys (nnn : Addr12) : (encode (.sys nnn)).toNat = nnn.toNat := by simp [encode, toNat_packNnn]

theorem toNat_encode_call (nnn : Addr12) : (encode (.call nnn)).toNat = 0x2000 + nnn.toNat := by
  simp [encode, toNat_packNnn]

/-- Settles O30: the push writes the slot at the old depth alone, and at depth 16 there is none. -/
theorem callPushesTheReturnAddress : Obligations.CallPushesTheReturnAddress := by
  intro s nnn
  rcases exec_call_cases nnn s with ⟨hlt, he⟩ | ⟨hfull, he⟩
  · refine ⟨fun h => ⟨_, he, zextAddr_eq_ofNat nnn, rfl, ?_, fun j hj => ?_, fun _ => rfl, rfl, SameBytes.of_mem rfl rfl⟩,
      fun hfull => by omega⟩
    · exact Vector.getElem_set_self h
    · exact Vector.getElem_set_ne hlt j.isLt hj.symm
  · refine ⟨fun h => by omega, fun _ => ⟨_, he, ?_⟩⟩
    rw [← BitVec.ofNat_add]
    exact raised_of_word s .stackOverflow (toNat_encode_call nnn)

/-- Settles O31: the pop reads the top slot and writes PC and the depth alone, and at depth 0 there is no slot. -/
theorem returnPopsTheReturnAddress : Obligations.ReturnPopsTheReturnAddress := by
  intro s
  rcases exec_ret_cases s with ⟨hpos, he⟩ | ⟨hempty, he⟩
  · exact ⟨fun _ => ⟨_, he, rfl, rfl, fun _ => rfl, rfl, SameBytes.of_mem rfl rfl⟩, fun hempty => by omega⟩
  · exact ⟨fun hpos => by omega, fun _ => ⟨_, he, raised_of_word s .stackUnderflow rfl⟩⟩

/-- Settles O32: the call leaves its return address in the top slot, one above the old depth. -/
theorem returnUndoesCall : Obligations.ReturnUndoesCall := by
  intro s t nnn hlt h
  obtain ⟨t', ht', -, hsp, htop, hslots, -⟩ := (callPushesTheReturnAddress s nnn).1 hlt
  obtain rfl : t' = t := by rw [h] at ht'; cases ht'; rfl
  obtain ⟨u, hu, hupc, husp, -, hframe, -⟩ := (returnPopsTheReturnAddress t').1 (by omega)
  refine ⟨u, hu, ?_, Fin.ext (by omega), fun j hj => ?_⟩
  · rw [hupc, ← htop]
    congr 1
    omega
  · rw [hframe]
    exact hslots j (by omega)

/-- Settles O33: the instruction's whole meaning is the error, and its word is `nnn` in class 0. -/
theorem sysLatchesUnsupportedInstruction : Obligations.SysLatchesUnsupportedInstruction := fun s nnn =>
  ⟨_, exec_sys nnn s, raised_of_word s .unsupportedInstruction (toNat_encode_sys nnn)⟩

/-- Settles O35: both skips compare the two registers, and n plays no part. -/
theorem registerSkipsCompareTheRegisters : Obligations.RegisterSkipsCompareTheRegisters := fun s x y n =>
  ⟨⟨_, exec_seReg x y n s, wrotePc_skipIf_beq s (s.readV x) (s.readV y)⟩,
    ⟨_, exec_sneReg x y n s, wrotePc_skipIf_bne s (s.readV x) (s.readV y)⟩⟩

end Sys2Proof.Machine
end

section
/-! Proofs of the statements about arithmetic and logic (spec/42_alu.md). -/

namespace Sys2Proof.Machine

/-! ### Results and flags as numbers -/

section bytes
variable (a b : Byte)

theorem add_eq_ofNat : a + b = BitVec.ofNat 8 ((a.toNat + b.toNat) % 256) := by
  apply BitVec.eq_of_toNat_eq
  simp

theorem sub_eq_ofNat : a - b = BitVec.ofNat 8 ((256 + a.toNat - b.toNat) % 256) := by
  apply BitVec.eq_of_toNat_eq
  have := b.isLt
  simp only [BitVec.toNat_sub, BitVec.toNat_ofNat]
  omega

theorem shiftRight_eq_ofNat : a >>> 1 = BitVec.ofNat 8 (a.toNat / 2) := by
  apply BitVec.eq_of_toNat_eq
  have := a.isLt
  simp only [BitVec.toNat_ushiftRight, Nat.shiftRight_one, BitVec.toNat_ofNat]
  omega

theorem shiftLeft_eq_ofNat : a <<< 1 = BitVec.ofNat 8 (2 * a.toNat % 256) := by
  apply BitVec.eq_of_toNat_eq
  simp [Nat.shiftLeft_eq, Nat.mul_comm]

theorem carryFlag_eq : carryFlag a b = if a.toNat + b.toNat > 255 then 1#8 else 0#8 := by
  simp [carryFlag, flagByte]

theorem noBorrowFlag_eq : noBorrowFlag a b = if a.toNat ≥ b.toNat then 1#8 else 0#8 := by
  simp [noBorrowFlag, flagByte]

/-- The flag of one bit of a byte is the bit itself. -/
theorem flagByte_getLsbD (k : Nat) : flagByte (a.getLsbD k) = BitVec.ofNat 8 (a.toNat / 2 ^ k % 2) := by
  rw [BitVec.getLsbD, Nat.testBit_eq_decide_div_mod_eq]
  rcases Nat.mod_two_eq_zero_or_one (a.toNat / 2 ^ k) with h | h <;> rw [h] <;> rfl

theorem shiftRightFlag_eq : shiftRightFlag a = BitVec.ofNat 8 (a.toNat % 2) := by
  rw [shiftRightFlag, flagByte_getLsbD, pow_zero, Nat.div_one]

theorem shiftLeftFlag_eq : shiftLeftFlag a = BitVec.ofNat 8 (a.toNat / 128) := by
  have hbit : a.toNat / 2 ^ 7 % 2 = a.toNat / 128 := by have := a.isLt; omega
  rw [shiftLeftFlag, flagByte_getLsbD, hbit]

end bytes

/-- Whatever was written to Vx is what Vx holds. -/
theorem WroteV.self {s t : State} {x : RegIx} {b : Byte} (h : WroteV s t x b) : WroteV s t x (t.readV x) := ⟨rfl, h.2⟩

/-! ### The statements -/

/-- Settles O37: the sum of two bytes is the exact one modulo 256, and Vx alone is written. -/
theorem addImmediateWrapsWithoutAFlag : Obligations.AddImmediateWrapsWithoutAFlag := by
  intro s x kk
  rw [← add_eq_ofNat]
  exact ⟨_, exec_addImm x kk s, wroteV_setV s x _⟩

/-- Settles O38: each of the three writes Vx alone, and acts on each bit by itself. -/
theorem bitwiseInstructionsWriteNoFlag : Obligations.BitwiseInstructionsWriteNoFlag := by
  intro s x y
  refine ⟨⟨_, exec_orReg x y s, (wroteV_setV s x _).self, fun b _ => ?_⟩,
    ⟨_, exec_andReg x y s, (wroteV_setV s x _).self, fun b _ => ?_⟩,
    ⟨_, exec_xorReg x y s, (wroteV_setV s x _).self, fun b _ => ?_⟩⟩ <;> rw [State.readV_setV, if_pos rfl]
  · exact BitVec.getLsbD_or
  · exact BitVec.getLsbD_and
  · exact BitVec.getLsbD_xor

/-- Settles O39: the sum goes to Vx, then the carry to VF. -/
theorem addWritesTheCarry : Obligations.AddWritesTheCarry := by
  intro s x y
  rw [← add_eq_ofNat, ← carryFlag_eq]
  exact ⟨_, exec_addReg x y s, wroteVAndFlag_setV_setVF s x _ _⟩

/-- Settles O40: the difference goes to Vx, then not-borrow to VF. -/
theorem subtractionsWriteNoBorrow : Obligations.SubtractionsWriteNoBorrow := by
  intro s x y
  rw [← sub_eq_ofNat, ← sub_eq_ofNat, ← noBorrowFlag_eq, ← noBorrowFlag_eq]
  exact ⟨⟨_, exec_subReg x y s, wroteVAndFlag_setV_setVF s x _ _⟩,
    ⟨_, exec_subnReg x y s, wroteVAndFlag_setV_setVF s x _ _⟩⟩

/-- Settles O41: the shifted byte goes to Vx, then the bit that left it to VF. -/
theorem shiftsWriteTheBitShiftedOut : Obligations.ShiftsWriteTheBitShiftedOut := by
  intro s x y
  rw [← shiftRight_eq_ofNat, ← shiftLeft_eq_ofNat, ← shiftRightFlag_eq, ← shiftLeftFlag_eq]
  exact ⟨⟨_, exec_shr x y s, wroteVAndFlag_setV_setVF s x _ _⟩,
    ⟨_, exec_shl x y s, wroteVAndFlag_setV_setVF s x _ _⟩⟩

/-- Settles O42: the draw is counted and Vx written with the masked byte. -/
theorem randomIsOneDrawMasked : Obligations.RandomIsOneDrawMasked := by
  intro s x kk
  have hx : (s.countDraw.setV x (s.randomByte &&& kk)).readV x = Config.randomByte s.draws &&& kk := by
    rw [State.readV_setV, if_pos rfl]
    rfl
  refine ⟨_, exec_rnd x kk s, hx, fun b _ hb => ?_, rfl, fun r hr => ?_, rfl, SameBytes.of_mem rfl rfl⟩
  · rw [hx, BitVec.getLsbD_and, hb, Bool.and_false]
  · rw [State.readV_setV, if_neg hr, State.readV_countDraw]

end Sys2Proof.Machine
end

section
/-! Proofs of the statements about I and memory (spec/43_index_memory.md, spec/20_memory.md section 7). -/

namespace Sys2Proof.Machine

/-! ### I -/

theorem add_zextByte_eq_ofNat (w : Word) (b : Byte) :
    w + zextByte b = BitVec.ofNat 16 ((w.toNat + b.toNat) % 65536) := by
  apply BitVec.eq_of_toNat_eq
  have := b.isLt
  rw [zextByte, BitVec.toNat_add, BitVec.toNat_setWidth, BitVec.toNat_ofNat]
  omega

/-- The address of a glyph is exact: the base is below 4096 and the last glyph begins 75 bytes after it. -/
theorem toNat_glyphAddress (cfg : Config) (v : Byte) :
    (glyphAddress cfg v).toNat = cfg.fontBase.toNat + 5 * (v.toNat % 16) := by
  have hlow : (v &&& 0x0F#8).toNat = v.toNat % 16 := Nat.and_two_pow_sub_one_eq_mod v.toNat 4
  have := cfg.fontBase.isLt
  rw [glyphAddress, hlow, BitVec.toNat_ofNat]
  omega

/-- Settles O44: the sum of the widened byte is the exact one modulo 65536, and I alone is written. -/
theorem addToIWrapsWithoutAFlag : Obligations.AddToIWrapsWithoutAFlag := by
  intro s x
  rw [← add_zextByte_eq_ofNat]
  exact ⟨_, exec_addIVx x s, wroteI_setI s _⟩

/-- Settles O45: I alone is written, with the glyph's address. -/
theorem loadFontWritesTheGlyphAddress : Obligations.LoadFontWritesTheGlyphAddress := fun s x =>
  ⟨_, exec_ldFVx x s, toNat_glyphAddress s.cfg (s.readV x), wroteI_setI s _⟩

/-! ### Block transfers -/

theorem toNat_encode_ldBVx (x : RegIx) : (encode (.ldBVx x)).toNat = 0xF033 + 256 * x.toNat := by
  simp only [encode, toNat_packXkk, BitVec.toNat_ofNat]
  omega

theorem toNat_encode_ldMemVx (x : RegIx) : (encode (.ldMemVx x)).toNat = 0xF055 + 256 * x.toNat := by
  simp only [encode, toNat_packXkk, BitVec.toNat_ofNat]
  omega

theorem toNat_encode_ldVxMem (x : RegIx) : (encode (.ldVxMem x)).toNat = 0xF065 + 256 * x.toNat := by
  simp only [encode, toNat_packXkk, BitVec.toNat_ofNat]
  omega

/-- Settles O46: the three digits are one block write at I, or the check on I + 2 fails first. -/
theorem bcdStoresThreeDigits : Obligations.BcdStoresThreeDigits := by
  intro s x hmem
  have hsize : memSize = 4096 := rfl
  rcases exec_ldBVx_cases x s with ⟨hle, he⟩ | ⟨hgt, he⟩
  · exact ⟨fun _ => ⟨_, he, storedBytes_writeBytes hmem hle⟩, fun hout => by omega⟩
  · exact ⟨fun hin => by omega,
      fun _ => ⟨_, he, raised_of_word s .outOfBoundsMemoryAccess (toNat_encode_ldBVx x)⟩⟩

/-- Settles O47: the registers are one block write at I, byte k of it V[k], or the check on I + x fails first. -/
theorem storeRegistersCopiesV0ToVx : Obligations.StoreRegistersCopiesV0ToVx := by
  intro s x hmem
  have hsize : memSize = 4096 := rfl
  rcases exec_ldMemVx_cases x s with ⟨hle, he⟩ | ⟨hgt, he⟩
  · have hlen := s.length_readVs x
    obtain ⟨hin, hout, hV, hframe⟩ := storedBytes_writeBytes hmem (a := s.I.toNat) (bs := s.readVs x) (by omega)
    refine ⟨fun _ => ⟨_, he, fun k hk => ?_, fun a ha => hout a (by omega), hV, hframe⟩, fun hout => by omega⟩
    rw [hin k (by omega), State.getElem_readVs]
  · exact ⟨fun hin => by omega,
      fun _ => ⟨_, he, raised_of_word s .outOfBoundsMemoryAccess (toNat_encode_ldMemVx x)⟩⟩

/-- Settles O48: V0 to Vx are one block of register writes with the bytes at I, or the check on I + x fails first. -/
theorem loadRegistersCopiesToV0ToVx : Obligations.LoadRegistersCopiesToV0ToVx := by
  intro s x
  have hsize : memSize = 4096 := rfl
  rcases exec_ldVxMem_cases x s with ⟨hle, he⟩ | ⟨hgt, he⟩
  · have hread := s.readV_setVs 0 (s.readBytes s.I.toNat (x.toNat + 1))
      (by rw [State.length_readBytes]; have := x.isLt; omega)
    simp only [State.length_readBytes, Nat.zero_le, true_and, Nat.sub_zero, State.getElem_readBytes] at hread
    refine ⟨fun _ => ⟨_, he, fun r hr => ?_, fun r hr => ?_, s.setVs_eq 0 _, s.readByte_setVs 0 _⟩, fun hout => by omega⟩
    · rw [hread, dif_pos (by omega)]
    · rw [hread, dif_neg (by omega)]
  · exact ⟨fun hin => by omega,
      fun _ => ⟨_, he, raised_of_word s .outOfBoundsMemoryAccess (toNat_encode_ldVxMem x)⟩⟩

/-- What a completed Fx55 leaves: V0 to Vx in memory from I on, with I and PC as they were. -/
theorem exec_ldMemVx_next {s t : State} {x : RegIx} (hmem : Memory.wf s.cfg s.mem = true)
    (hle : s.I.toNat + x.toNat < 4096) (h : exec (.ldMemVx x) s = .next t) :
    (∀ k ≤ x.toNat, t.readByte (s.I.toNat + k) = s.readV (BitVec.ofNat 4 k)) ∧ t.I = s.I ∧ t.pc = s.pc := by
  obtain ⟨t', ht', hbytes, -, -, hframe⟩ := (storeRegistersCopiesV0ToVx s x hmem).1 hle
  rw [h] at ht'
  cases ht'
  exact ⟨hbytes, by rw [hframe], by rw [hframe]⟩

/-- Settles O49: Fx65 reads back the bytes Fx55 stored, since neither instruction moves I. -/
theorem loadRegistersUndoesStoreRegisters : Obligations.LoadRegistersUndoesStoreRegisters := by
  intro s t x v hmem hle h
  obtain ⟨hbytes, hI, -⟩ := exec_ldMemVx_next hmem hle h
  obtain ⟨u, hu, hload, -⟩ := (loadRegistersCopiesToV0ToVx { t with v := v } x).1 (by simpa only [hI] using hle)
  refine ⟨u, hu, fun r hr => ?_⟩
  calc u.readV r
      = t.readByte (t.I.toNat + r.toNat) := hload r hr
    _ = s.readV (BitVec.ofNat 4 r.toNat) := by rw [hI, hbytes r.toNat hr]
    _ = s.readV r := by rw [BitVec.ofNat_toNat, BitVec.setWidth_eq]

/-- Settles O50: the fetch reads the two bytes at PC, and these are the first two that the store wrote. -/
theorem theNextFetchSeesAStore : Obligations.TheNextFetchSeesAStore := by
  intro s t x hmem hIpc hx hle h
  obtain ⟨hbytes, -, hpc⟩ := exec_ldMemVx_next hmem (by rwa [hIpc]) h
  rw [hIpc] at hbytes
  have hhigh : t.readByte s.pc.toNat = s.readV 0#4 := hbytes 0 (Nat.zero_le _)
  have hlow : t.readByte (s.pc.toNat + 1) = s.readV 1#4 := hbytes 1 hx
  rw [State.fetch_eq_wordAtPc (by rw [hpc]; omega), State.wordAtPc, hpc, hhigh, hlow]

end Sys2Proof.Machine
end

section
/-! Proofs of the statements about the display, the keys, the sound timer and the wait (spec/44_display_keys_timers.md). -/

namespace Sys2Proof.Machine

/-! ### Drawing -/

theorem toNat_encode_drw (x y : RegIx) (n : Nibble) :
    (encode (.drw x y n)).toNat = 0xD000 + 256 * x.toNat + 16 * y.toNat + n.toNat := by
  simp only [encode, toNat_packXyn, BitVec.toNat_ofNat]

/-- A pixel after a draw is on where exactly one holds: the sprite plots it, or it was on before. -/
theorem pixel_drawn (s : State) (x y : RegIx) (n : Nibble) (qx : Fin 64) (qy : Fin 32) :
    pixel (plotAll (s.drawnPixels x y n) s.disp).1 qx qy = true ↔ (Plots s x y n qx qy ↔ pixel s.disp qx qy = false) := by
  rw [(plotAll_spec _ (s.drawnPixels_nodup x y n) s.disp).1, ← mem_drawnPixels]
  by_cases hmem : (qx, qy) ∈ s.drawnPixels x y n <;> simp [hmem]

/-- The draw reports a collision where it plots a pixel that was on (R232). -/
theorem collision_drawn (s : State) (x y : RegIx) (n : Nibble) :
    (plotAll (s.drawnPixels x y n) s.disp).2 = true ↔ ∃ qx qy, Plots s x y n qx qy ∧ pixel s.disp qx qy = true := by
  rw [(plotAll_spec _ (s.drawnPixels_nodup x y n) s.disp).2]
  simp only [Prod.exists, mem_drawnPixels]

/-- Settles O52: the draw writes the display and VF alone, after its one check. -/
theorem drawInvertsThePlottedPixelsAndReportsACollision :
    Obligations.DrawInvertsThePlottedPixelsAndReportsACollision := by
  intro s x y n hin
  have hsize : memSize = 4096 := rfl
  rcases exec_drw_cases x y n s with ⟨-, he⟩ | ⟨hpos, hgt, -⟩
  · refine ⟨_, he, pixel_drawn s x y n, fun hhit => ?_, fun hmiss => ?_, fun r hr => ?_, rfl, SameBytes.of_mem rfl rfl⟩
    · rw [State.readV_setVF, if_pos rfl, (collision_drawn s x y n).mpr hhit]
      rfl
    · rw [State.readV_setVF, if_pos rfl, Bool.eq_false_iff.mpr fun hflag => hmiss ((collision_drawn s x y n).mp hflag)]
      rfl
    · rw [State.readV_setVF, if_neg hr, State.readV_setDisp]
  · omega

/-- Settles O53: the check on the last row fails before anything is drawn. -/
theorem drawBeyondMemoryRaises : Obligations.DrawBeyondMemoryRaises := by
  intro s x y n hpos hgt
  have hsize : memSize = 4096 := rfl
  rcases exec_drw_cases x y n s with ⟨hin, -⟩ | ⟨-, -, he⟩
  · omega
  · exact ⟨_, he, raised_of_word s .outOfBoundsMemoryAccess (toNat_encode_drw x y n)⟩

/-- Two states that agree on the coordinates, on I, on memory and on the parameters plot the same pixels. -/
theorem plots_congr {s t : State} {x y : RegIx} (n : Nibble) (hx : t.readV x = s.readV x) (hy : t.readV y = s.readV y)
    (hI : t.I = s.I) (hcfg : t.cfg = s.cfg) (hbytes : SameBytes s t) (qx : Fin 64) (qy : Fin 32) :
    Plots t x y n qx qy ↔ Plots s x y n qx qy := by
  simp only [Plots, hx, hy, hI, hcfg, hbytes _]

/-- Settles O54: the second draw plots the same pixels, and to invert a pixel twice is to leave it. -/
theorem drawingTwiceRestoresTheDisplay : Obligations.DrawingTwiceRestoresTheDisplay := by
  intro s t x y n hx hy hin h
  obtain ⟨t', ht', hpix, -, -, hV, hframe, hbytes⟩ := drawInvertsThePlottedPixelsAndReportsACollision s x y n hin
  obtain rfl : t' = t := by rw [h] at ht'; cases ht'; rfl
  have hI : t'.I = s.I := by rw [hframe]
  have hplots := plots_congr n (hV x hx) (hV y hy) hI (by rw [hframe]) hbytes
  obtain ⟨u, hu, hpix', hhit, hmiss, -⟩ := drawInvertsThePlottedPixelsAndReportsACollision t' x y n (by rwa [hI])
  simp only [hplots] at hpix' hhit hmiss
  refine ⟨u, hu, display_ext fun qx qy => ?_, ?_⟩
  · rw [Bool.eq_iff_iff, hpix', ← Bool.not_eq_true, hpix, ← Bool.not_eq_true]
    tauto
  · have hcollide : (∃ qx qy, Plots s x y n qx qy ∧ pixel t'.disp qx qy = true) ↔
        ∃ qx qy, Plots s x y n qx qy ∧ pixel s.disp qx qy = false := by
      refine exists_congr fun qx => exists_congr fun qy => and_congr_right fun hp => ?_
      rw [hpix, iff_true_left hp]
    rw [← hcollide]
    refine ⟨fun hflag => ?_, hhit⟩
    by_contra hno
    rw [hmiss hno] at hflag
    cases hflag

/-! ### Keys, the sound timer and the wait -/

theorem keyIndex_of_named {cfg : Config} {v : Byte} {k : Key} (hk : k.toNat = v.toNat % 16)
    (hnamed : v.toNat < 16 ∨ cfg.keyIndexHigh = .lowNibble) : keyIndex cfg v = some k := by
  rcases keyIndex_cases cfg v with ⟨-, j, hj, hjv⟩ | ⟨hhigh, hrefuse, -⟩
  · rw [hj, BitVec.eq_of_toNat_eq (hjv.trans hk.symm)]
  · rcases hnamed with hlow | hlow
    · omega
    · cases hlow.symm.trans hrefuse

theorem keyIndex_of_refused {cfg : Config} {v : Byte} (hhigh : 16 ≤ v.toNat) (hrefuse : cfg.keyIndexHigh = .refuse) :
    keyIndex cfg v = none := by
  rcases keyIndex_cases cfg v with ⟨hlow | hlow, -⟩ | ⟨-, -, hnone⟩
  · omega
  · cases hlow.symm.trans hrefuse
  · exact hnone

theorem wrotePc_skipIf_not (s : State) (c : Bool) :
    WrotePc s (s.skipIf !c) (if c = true then s.pc else s.pc + 2#16) := by
  cases c <;> exact wrotePc_skipIf s _

/-- Settles O55: both skips test the key that Vx names, and refuse where it names none. -/
theorem keySkipsTestTheNamedKey : Obligations.KeySkipsTestTheNamedKey := by
  intro s x k hk
  refine ⟨fun hnamed => ?_, fun hhigh hrefuse => ?_⟩
  · have hindex := keyIndex_of_named hk hnamed
    exact ⟨⟨_, by simp only [exec, execSkp, hindex], wrotePc_skipIf s _⟩,
      ⟨_, by simp only [exec, execSknp, hindex], wrotePc_skipIf_not s _⟩⟩
  · have hindex := keyIndex_of_refused hhigh hrefuse
    exact ⟨by simp only [exec, execSkp, hindex], by simp only [exec, execSknp, hindex]⟩

/-- Settles O57: the sound timer alone is written, and the sound output follows it. -/
theorem soundTimerIsSet : Obligations.SoundTimerIsSet := fun s x =>
  ⟨_, exec_ldStVx x s, rfl, soundActive_iff _, s.readV_setST _, rfl, s.readByte_setST _⟩

/-- Settles O58: the wait begins with x as its register, and nothing but the two fields of the wait is written. -/
theorem waitForKeySuspendsTheCore : Obligations.WaitForKeySuspendsTheCore := fun s x =>
  ⟨_, exec_ldVxK x s, rfl, rfl, rfl, s.readV_startWait x, rfl, s.readByte_startWait x⟩

end Sys2Proof.Machine
end
